-- ==== Sys2Proof/Word.lean ====
section
/-! DEFINITION. The words of the block: binary64 and binary32 patterns (`00_scope.md` R9), bytes at the upstream
boundary (`20_memory.md` R40) and the 37-bit request word (`30_encoding.md` R61). -/

namespace Sys2Proof

/-- A byte of a data block's payload (R40). -/
abbrev Byte := BitVec 8

/-- The bit pattern of an IEEE 754 binary64 value (R9). -/
abbrev F64 := BitVec 64

/-- The bit pattern of an IEEE 754 binary32 value (R9). -/
abbrev F32 := BitVec 32

/-- The 37-bit request word `REQ` (R61). -/
abbrev RequestWord := BitVec 37

/-- The 97-bit response word `RSP` (R63). -/
abbrev ResponseWord := BitVec 97

end Sys2Proof
end

