-- ==== Sys2Proof/Syntax.lean ====
section
/-! DEFINITION. The instructions: the one row of `opcode_table.json` (`30_encoding.md` R64), and the assembler's
statements (R68 to R70), which name requests and idle cycles. -/

namespace Sys2Proof

/-- The operations of the block: one constructor per row of the opcode table. -/
inductive Instr where
  /-- PROJECT (R80): channel index, raw azimuth in hundredths of a degree, raw distance in units of 2 mm. -/
  | project (ch : BitVec 5) (az dist : BitVec 16)
deriving DecidableEq, Repr

/-- An assembler statement with its operands as written, before any range check (R68 to R70). -/
inductive Stmt where
  /-- `PROJECT ch, az_raw, dist_raw` (R68). -/
  | project (ch az dist : Nat)
  /-- `PROJECT.BLOCK az_raw, d0, ..., d31` (R69). -/
  | block (az : Nat) (dists : List Nat)
  /-- `IDLE n` (R70). -/
  | idle (n : Nat)
deriving DecidableEq, Repr

end Sys2Proof
end

