-- ==== Sys2Proof/WellFormed.lean ====
section
/-! DEFINITION. Which terms stand for something: every operation does (`30_encoding.md` R65); an assembler statement
does when its operands are in their ranges and in their number (R68 to R70). -/

namespace Sys2Proof

/-- Every request is legal: "No request word is illegal, reserved or a hint" (R65). The operands' widths are in their
types, so no check is left. -/
def Instr.wf : Instr → Bool
  | .project _ _ _ => true

/-- The range checks of R68 (`ch` 0..31, `az_raw` and `dist_raw` 0..65535), the operand count of R69 (33 operands:
the azimuth and 32 distances) and `n ≥ 1` of R70. -/
def Stmt.wf : Stmt → Bool
  | .project ch az dist => decide (ch < 32) && decide (az < 65536) && decide (dist < 65536)
  | .block az dists => decide (az < 65536) && decide (dists.length = 32) && dists.all (fun d => decide (d < 65536))
  | .idle n => decide (1 ≤ n)

end Sys2Proof
end

