-- ==== Sys2Proof/Decode.lean ====
section
/-! DEFINITION. From request words to operations and back (`30_encoding.md` R61, R62, R64, R66). The port carries
whole words and no byte order (`20_memory.md` R42); the byte form below is the model's container for the opcode
table's words (log 11). -/

namespace Sys2Proof

/-- Field `ch` of a request word: `REQ[36:32]` (R62). -/
def wordCh (w : RequestWord) : BitVec 5 := w.extractLsb' 32 5

/-- Field `az_raw` of a request word: `REQ[31:16]` (R62). -/
def wordAz (w : RequestWord) : BitVec 16 := w.extractLsb' 16 16

/-- Field `dist_raw` of a request word: `REQ[15:0]` (R62). -/
def wordDist (w : RequestWord) : BitVec 16 := w.extractLsb' 0 16

/-- Every request word is PROJECT on its three fields (R62, R64). -/
def decode (w : RequestWord) : Instr := .project (wordCh w) (wordAz w) (wordDist w)

/-- `REQ = {req_ch, req_az, req_dist}` (R61). -/
def encode : Instr → RequestWord
  | .project ch az dist => ch ++ az ++ dist

/-- Why a run of bytes is no request. Raised by `decodeBytes` only; the request port cannot raise it. Safe. -/
inductive DecodeError where
  /-- Fewer than five bytes: a request is exactly one 37-bit word (R66). -/
  | truncated
  /-- A bit above bit 36 is set: the word is wider than a request word (R66). -/
  | widerThanRequestWord
deriving DecidableEq, Repr

/-- The number five bytes hold, the first byte least significant. -/
def bytesValue (b0 b1 b2 b3 b4 : Byte) : Nat := (b4 ++ b3 ++ b2 ++ b1 ++ b0 : BitVec 40).toNat

/-- Reads one request from bytes: five bytes, the first least significant, bits 39:37 zero; the bytes after it are
handed on. -/
def decodeBytes : List Byte → Except DecodeError (Instr × List Byte)
  | b0 :: b1 :: b2 :: b3 :: b4 :: rest =>
    if bytesValue b0 b1 b2 b3 b4 < 2 ^ 37 then .ok (decode (BitVec.ofNat 37 (bytesValue b0 b1 b2 b3 b4)), rest)
    else .error .widerThanRequestWord
  | _ => .error .truncated

/-- Byte `i` of a number, byte 0 least significant. -/
def byteAt (v i : Nat) : Byte := BitVec.ofNat 8 (v / 2 ^ (8 * i))

/-- The five bytes of a number below 2^40. -/
def fiveBytes (v : Nat) : List Byte := [byteAt v 0, byteAt v 1, byteAt v 2, byteAt v 3, byteAt v 4]

/-- The bytes `decodeBytes` reads as `i`. -/
def encodeBytes (i : Instr) : List Byte := fiveBytes (encode i).toNat

/-- The operation read from a word of the opcode table, whose row gives it `nbits` bits. -/
def decodeTableWord (nbits w : Nat) : Option Instr :=
  if w % 2 ^ nbits < 2 ^ 40 then
    match decodeBytes (fiveBytes (w % 2 ^ nbits)) with
    | .ok (i, _) => some i
    | .error _ => none
  else none

end Sys2Proof
end

