-- ==== Sys2Proof/Config.lean ====
section
/-! DEFINITION. What an implementation fixes, and the free values: constants without a body, of which nothing can be
proved but that they are functions of their arguments (`00_scope.md` R5, `93_implementation_defined.md` U1 to U6). -/

namespace Sys2Proof

/-- Parameter `P_TRIG` (R5, R11): the binary64 sine and cosine. A function of its argument alone; nothing else is
assumed of it where a definition takes it as an argument. -/
structure Trig where
  sin64 : F64 → F64
  cos64 : F64 → F64

/-- Parameter `P_LATENCY` (R5): OPEN, so it has no body. Log 1. -/
opaque Config.latency : Nat

/-- Parameter `P_VANGLE[0..15]` (R5), in degrees, as binary64 patterns. Entry 0 (-15) is the source's; entries 1..15
are the spec's default "from general knowledge, not in source". PRESUMED, log 3. -/
def Config.vangle : Vector F64 16 := #v[
  0xC02E000000000000, 0x3FF0000000000000, 0xC02A000000000000, 0x4008000000000000,
  0xC026000000000000, 0x4014000000000000, 0xC022000000000000, 0x401C000000000000,
  0xC01C000000000000, 0x4022000000000000, 0xC014000000000000, 0x4026000000000000,
  0xC008000000000000, 0x402A000000000000, 0xBFF0000000000000, 0x402E000000000000]

/-- The product where an operand is not finite: R10 defines `mul64` on real values only. Log 4. -/
opaque Config.mulUnstated : F64 → F64 → F64

/-- The quotient where an operand is not finite or the divisor is zero: R10 states none. Log 4. -/
opaque Config.divUnstated : F64 → F64 → F64

/-- The narrowing of a value that is not finite: R12 states none. Log 4. -/
opaque Config.narrowUnstated : F64 → F32

/-- The sine of an argument on which the model's enclosure does not settle the rounding, or that is not finite: a
function of the argument alone (R11). Log 2. -/
opaque Config.sinUnstated : F64 → F64

/-- The cosine in the cases of `Config.sinUnstated`. Log 2. -/
opaque Config.cosUnstated : F64 → F64

/-- What `rsp_point` shows when no response is presented (R29: "any value"). Log 6. -/
opaque Config.freePoint : Nat → Bool

/-- What `rsp_x` shows when no response is presented (R29). Log 6. -/
opaque Config.freeX : Nat → F32

/-- What `rsp_y` shows when no response is presented (R29). Log 6. -/
opaque Config.freeY : Nat → F32

/-- What `rsp_z` shows when no response is presented (R29). Log 6. -/
opaque Config.freeZ : Nat → F32

/-- `stage_valid` of a stage (second argument) in a cycle (first argument) before the first reset edge (R136, U5).
Log 13. -/
opaque Config.powerUpValid : Nat → Nat → Bool

/-- The request standing in a stage in a cycle before the first reset edge: channel, azimuth, distance (R136, U5).
Log 13. -/
opaque Config.powerUpPayload : Nat → Nat → BitVec 5 × BitVec 16 × BitVec 16

/-- `rsp_valid` in a cycle before the first reset edge (R136, U5). Log 13. -/
opaque Config.powerUpRspValid : Nat → Bool

/-- `rsp_point`, `rsp_x`, `rsp_y`, `rsp_z` in a cycle before the first reset edge (R136, U5). Log 13. -/
opaque Config.powerUpRsp : Nat → Bool × F32 × F32 × F32

end Sys2Proof
end

