-- ==== Sys2Proof/Machine/Float.lean ====
section
/-! DEFINITION. The arithmetic of the block: the formats (`00_scope.md` R9), `mul64`, `div64`, `toF64` (R10) and
`narrow32` (R12), each rounded once, to nearest, ties to even. A finite value is an exact fraction; a magnitude is
rounded by `roundMagnitude`, which both formats share. -/

namespace Sys2Proof.Machine

/-- The sign bit: bit 63 (R9). -/
def sign64 (v : F64) : Bool := v.getLsbD 63

/-- The biased exponent: bits 62:52 (R9). -/
def exponent64 (v : F64) : Nat := (v.extractLsb' 52 11).toNat

/-- The fraction: bits 51:0 (R9). -/
def fraction64 (v : F64) : Nat := (v.extractLsb' 0 52).toNat

/-- Neither an infinity nor a NaN (R9). -/
def finite64 (v : F64) : Bool := exponent64 v != 2047

/-- The significand of a finite value as an integer: with the hidden bit for a normal value (R9). -/
def significand64 (v : F64) : Nat :=
  if exponent64 v = 0 then fraction64 v else 2 ^ 52 + fraction64 v

/-- Numerator of the magnitude `significand · 2^(exponent − 1075)` of a finite value (R9). -/
def numerator64 (v : F64) : Nat := significand64 v * 2 ^ (exponent64 v - 1075)

/-- Denominator of that magnitude; a subnormal value has the exponent of biased exponent 1 (R9). -/
def denominator64 (v : F64) : Nat := 2 ^ (1075 - max (exponent64 v) 1)

/-- The sign bit of a binary32 pattern: bit 31 (R9). -/
def sign32 (v : F32) : Bool := v.getLsbD 31

/-- The biased exponent of a binary32 pattern: bits 30:23 (R9). -/
def exponent32 (v : F32) : Nat := (v.extractLsb' 23 8).toNat

/-- The fraction of a binary32 pattern: bits 22:0 (R9). -/
def fraction32 (v : F32) : Nat := (v.extractLsb' 0 23).toNat

/-- Neither an infinity nor a NaN (R9). -/
def finite32 (v : F32) : Bool := exponent32 v != 255

/-- The significand of a finite binary32 value as an integer (R9). -/
def significand32 (v : F32) : Nat :=
  if exponent32 v = 0 then fraction32 v else 2 ^ 23 + fraction32 v

/-- The position of the leading one of a number below `2^(2^k)`, by halving. -/
def leadingBitBelow : Nat → Nat → Nat
  | 0, _ => 0
  | k + 1, n => if n < 2 ^ 2 ^ k then leadingBitBelow k n else 2 ^ k + leadingBitBelow k (n / 2 ^ 2 ^ k)

/-- Halvings that reach every quotient the block's arithmetic forms (below 2^8192). -/
def halvings : Nat := 13

/-- The position of the leading one, `⌊log2 n⌋` (0 for 0). Equal to `Nat.log2` (`leadingBit_eq_log2`), in a form
the kernel evaluates quickly. -/
def leadingBit (n : Nat) : Nat := if n < 2 ^ 2 ^ halvings then leadingBitBelow halvings n else Nat.log2 n

/-- The integer nearest to `n / d`; the even one of two that are equally near (R10). -/
def nearestInt (n d : Nat) : Nat :=
  if 2 * (n % d) < d then n / d
  else if d < 2 * (n % d) then n / d + 1
  else n / d + n / d % 2

/-- The rounding step below a scaled value `n / d`: a power of two (its exponent) that leaves `p` significant bits,
never below one unit. -/
def roundingShift (p n d : Nat) : Nat := leadingBit (n / d) + 1 - p

/-- The magnitude bits (exponent and fraction) of `n / d` rounded to nearest, ties to even, in a format with `p`
significant bits whose smallest unit is `2^-u` (R10, R12). A significand that rounds up to `2^p` carries into the
exponent, as it should; there is no upper limit here. -/
def roundMagnitude (p u n d : Nat) : Nat :=
  roundingShift p (n * 2 ^ u) d * 2 ^ (p - 1)
    + nearestInt (n * 2 ^ u) (d * 2 ^ roundingShift p (n * 2 ^ u) d)

/-- The binary64 value nearest to `± n / d` (R10). A magnitude past the largest finite one becomes infinity (log 5). -/
def round64 (negative : Bool) (n d : Nat) : F64 :=
  BitVec.ofNat 64 ((if negative then 2 ^ 63 else 0) + min (roundMagnitude 53 1074 n d) 0x7FF0000000000000)

/-- The binary32 value nearest to `± n / d` (R12). A magnitude past the largest finite one becomes infinity (log 5). -/
def round32 (negative : Bool) (n d : Nat) : F32 :=
  BitVec.ofNat 32 ((if negative then 2 ^ 31 else 0) + min (roundMagnitude 24 149 n d) 0x7F800000)

/-- `mul64(a, b) = fl64(a × b)` (R10). The sign is the exclusive or of the operands' (log 5). -/
def mul64 (a b : F64) : F64 :=
  if finite64 a && finite64 b then
    round64 (sign64 a != sign64 b) (numerator64 a * numerator64 b) (denominator64 a * denominator64 b)
  else Config.mulUnstated a b

/-- `div64(a, b) = fl64(a ÷ b)` (R10). The sign is the exclusive or of the operands' (log 5). -/
def div64 (a b : F64) : F64 :=
  if finite64 a && finite64 b && significand64 b != 0 then
    round64 (sign64 a != sign64 b) (numerator64 a * denominator64 b) (denominator64 a * numerator64 b)
  else Config.divUnstated a b

/-- `toF64(n)`: the binary64 value of a 16-bit unsigned integer, exact (R10). -/
def toF64 (n : BitVec 16) : F64 := round64 false n.toNat 1

/-- `narrow32(v)`, with `bits32` of its result: the nearest binary32 value, ties to even (R12). -/
def narrow32 (v : F64) : F32 :=
  if finite64 v then round32 (sign64 v) (numerator64 v) (denominator64 v) else Config.narrowUnstated v

end Sys2Proof.Machine
end

