-- ==== Sys2Proof/Machine/Trig.lean ====
section
/-! DEFINITION. The default of parameter `P_TRIG`: correctly rounded sine and cosine (`00_scope.md` R11, `CR`).

The argument is an exact fraction `n / d`, and a partial sum of the power series is computed exactly. Once the terms
no longer grow, the true value lies within the last term of the sum, so that where both ends of that enclosure round to
the same binary64 value, that value IS the correctly rounded one. Where they do not, the result is a free value, never
a guess (log 2). -/

namespace Sys2Proof.Machine

/-- Numerator, over `seriesDenominator odd d k`, of `Σ_{j ≤ k} (−1)^j x^(2j+odd) / (2j+odd)!` at `x = n / d`: the
sine's series for `odd = 1`, the cosine's for `odd = 0`. -/
def seriesNumerator (odd n d : Nat) : Nat → Int
  | 0 => ((n ^ odd : Nat) : Int)
  | k + 1 =>
    seriesNumerator odd n d k * ((d * d * ((2 * k + odd + 1) * (2 * k + odd + 2)) : Nat) : Int)
      + (if k % 2 = 0 then -((n ^ (2 * k + odd + 2) : Nat) : Int) else ((n ^ (2 * k + odd + 2) : Nat) : Int))

/-- `d^(2k+odd) · (2k+odd)!`, the denominator of the sum of `seriesNumerator` and of its last term. -/
def seriesDenominator (odd d : Nat) : Nat → Nat
  | 0 => d ^ odd
  | k + 1 => seriesDenominator odd d k * (d * d * ((2 * k + odd + 1) * (2 * k + odd + 2)))

/-- The index of the last term taken: enough for every argument the block produces (R11: at most 11.44). -/
def lastTerm : Nat := 60

/-- The binary64 value nearest to a signed fraction, its sign flipped where asked. -/
def roundSigned (flip : Bool) (n : Int) (d : Nat) : F64 := round64 (flip != decide (n < 0)) n.natAbs d

/-- The common rounding of the two ends of the enclosure at `n / d`, where the terms after the last one taken do not
grow and the two ends round alike. -/
def enclosedRounding (odd : Nat) (flip : Bool) (n d : Nat) : Option F64 :=
  if n * n ≤ d * d * ((2 * lastTerm + odd + 1) * (2 * lastTerm + odd + 2))
      ∧ roundSigned flip (seriesNumerator odd n d lastTerm - ((n ^ (2 * lastTerm + odd) : Nat) : Int))
            (seriesDenominator odd d lastTerm)
          = roundSigned flip (seriesNumerator odd n d lastTerm + ((n ^ (2 * lastTerm + odd) : Nat) : Int))
            (seriesDenominator odd d lastTerm) then
    some (roundSigned flip (seriesNumerator odd n d lastTerm - ((n ^ (2 * lastTerm + odd) : Nat) : Int))
      (seriesDenominator odd d lastTerm))
  else none

/-- The certified sine of a finite argument: the series at the magnitude, with the argument's sign (the sine is odd). -/
def certifiedSin (a : F64) : Option F64 :=
  if finite64 a then enclosedRounding 1 (sign64 a) (numerator64 a) (denominator64 a) else none

/-- The certified cosine of a finite argument (the cosine is even). -/
def certifiedCos (a : F64) : Option F64 :=
  if finite64 a then enclosedRounding 0 false (numerator64 a) (denominator64 a) else none

/-- `SIN64` under `P_TRIG = CR` (R11). -/
def sinCR (a : F64) : F64 := (certifiedSin a).getD (Config.sinUnstated a)

/-- `COS64` under `P_TRIG = CR` (R11). -/
def cosCR (a : F64) : F64 := (certifiedCos a).getD (Config.cosUnstated a)

/-- The default `P_TRIG = CR` (R5, R11). -/
def trigCR : Trig where
  sin64 := sinCR
  cos64 := cosCR

end Sys2Proof.Machine
end

