-- ==== Sys2Proof/Machine/Rom.lean ====
section
/-! DEFINITION. The read-only storage: the four constants (`10_state.md` R21) and the vertical-angle ROM
(R22 to R24; `20_memory.md` R43, R44). Fixed when the block is built (`70_reset_and_hazards.md` R133). -/

namespace Sys2Proof.Machine

/-- One location of the vertical-angle ROM: 128 bits (R22). -/
structure RomEntry where
  cos : F64
  sin : F64
deriving DecidableEq, Repr

/-- What is fixed when the block is built: the constants of R21, the ROM of R22 and the latency `P_LATENCY` of R5. No
port, register or operation changes any of it (R27). -/
structure Hardware where
  /-- `C_SCALE`, 0.002 (R21). -/
  cScale : F64
  /-- `C_100`, 100.0 (R21). -/
  c100 : F64
  /-- `C_PI`, π (R21). -/
  cPi : F64
  /-- `C_180`, 180 (R21). -/
  c180 : F64
  /-- `VROM[0..15]` (R22). -/
  vrom : Vector RomEntry 16
  /-- `P_LATENCY`: cycles from an accepted request to its response (R5). -/
  latency : Nat
deriving DecidableEq, Repr

/-- `C_SCALE` (R21). -/
def constScale : F64 := 0x3F60624DD2F1A9FC

/-- `C_100` (R21). -/
def const100 : F64 := 0x4059000000000000

/-- `C_PI` (R21). -/
def constPi : F64 := 0x400921FB54442D18

/-- `C_180` (R21). -/
def const180 : F64 := 0x4066800000000000

/-- `div64(mul64(deg, C_PI), C_180)`: degrees to radians, in the operation order of R23 and R84. -/
def degreesToRadians (cPi c180 deg : F64) : F64 := div64 (mul64 deg cPi) c180

/-- `VROM[k]` for the vertical angle `P_VANGLE[k]`: the angle "converted once to radians", then its cosine and sine
(R23). -/
def romEntry (T : Trig) (angle : F64) : RomEntry where
  cos := T.cos64 (degreesToRadians constPi const180 angle)
  sin := T.sin64 (degreesToRadians constPi const180 angle)

/-- The block built for given parameters (R5, R21, R23). -/
def buildHardware (T : Trig) (vangle : Vector F64 16) (latency : Nat) : Hardware where
  cScale := constScale
  c100 := const100
  cPi := constPi
  c180 := const180
  vrom := vangle.map (romEntry T)
  latency := latency

/-- `RomRead(k)`: entry `k` of the ROM; every 4-bit index is valid (R43). -/
def romRead (hw : Hardware) (k : BitVec 4) : RomEntry := hw.vrom[k.toNat]'k.isLt

end Sys2Proof.Machine
end

