-- ==== Sys2Proof/Machine/State.lean ====
section
/-! DEFINITION. The state of the block (`10_state.md` R21 to R30) and of the host that drives it (`20_memory.md` R51),
as plain data, and the state after reset (R30). -/

namespace Sys2Proof.Machine

/-- The operands of one accepted request (`30_encoding.md` R60). -/
structure Request where
  ch : BitVec 5
  az : BitVec 16
  dist : BitVec 16
deriving DecidableEq, Repr

/-- One response: `point` and three binary32 patterns (`30_encoding.md` R63). -/
structure Response where
  point : Bool
  x : F32
  y : F32
  z : F32
deriving DecidableEq, Repr

/-- What the host does in one cycle: the input pins sampled at the edge that ends the cycle (`30_encoding.md` R60,
`70_reset_and_hazards.md` R130, R134), and whether it samples the response port at that edge (R138). -/
structure HostCycle where
  rst : Bool
  reqValid : Bool
  reqCh : BitVec 5
  reqAz : BitVec 16
  reqDist : BitVec 16
  /-- The host samples the response port in this cycle. A response it does not sample is lost to it (R138). -/
  takes : Bool
deriving DecidableEq, Repr

/-- The state during one cycle. -/
structure State where
  /-- The read-only constants, the ROM and the latency of this block (R21, R22, R5). -/
  hw : Hardware
  /-- The internal stages 1, 2, …, `P_LATENCY − 1`, in this order: `some r` is a stage with `stage_valid = 1` that holds
  request `r`, `none` one with `stage_valid = 0` (R28). Log 12. -/
  stages : List (Option Request)
  /-- `rsp_valid` (R29). -/
  rspValid : Bool
  /-- `rsp_point` (R29). -/
  rspPoint : Bool
  /-- `rsp_x` (R29). -/
  rspX : F32
  /-- `rsp_y` (R29). -/
  rspY : F32
  /-- `rsp_z` (R29). -/
  rspZ : F32
  /-- The model's own: a rising edge with `rst = 1` has been seen since power-up. Until one has, every register holds
  any value (`70_reset_and_hazards.md` R136). Log 13. -/
  wasReset : Bool
  /-- The model's own: what the host does in this cycle (head) and the ones after it; past the list's end it is idle.
  Log 8. -/
  host : List HostCycle
  /-- The model's own: the responses the host has sampled, oldest first. Log 9. -/
  received : List Response
  /-- The model's own: rising edges passed so far; the index of the next free value. Log 6. -/
  edges : Nat
deriving DecidableEq, Repr

/-- The faults of the block: none. "The block raises no synchronous exception, for any request word"
(`60_exceptions.md` R110), and it has no trap and no interrupt (R113, R114). -/
inductive Fault where
deriving DecidableEq, Repr

/-- Why a step would be refused. No step is: every request word is an operation (`30_encoding.md` R65). -/
inductive Refusal where
  /-- An instruction without a meaning, raised by an arm of `exec` that rejects it by name. No arm does. Safe. -/
  | notModelled (mnemonic : String)
deriving DecidableEq, Repr

/-- The block right after reset (R30): every stage empty, `rsp_valid = 0`, the constants and the ROM as built with the
default parameters. The response data registers, for which R30 states no value, hold zero (DESIGN CHOICE, log 7); the
host has nothing to present (log 8). -/
def State.reset : State where
  hw := buildHardware trigCR Config.vangle Config.latency
  stages := List.replicate (Config.latency - 1) none
  rspValid := false
  rspPoint := false
  rspX := 0
  rspY := 0
  rspZ := 0
  wasReset := true
  host := []
  received := []
  edges := 0

end Sys2Proof.Machine
end

