-- ==== Sys2Proof/Machine/Flags.lean ====
section
/-! DEFINITION. The one status bit: `point`, carried by each response (`10_state.md` R26). There are no IEEE exception
flags and no condition codes (R26, `40_project.md` R90). -/

namespace Sys2Proof.Machine

/-- `point` is 0 when `dist_raw = 0` and 1 otherwise (`40_project.md` R80, R81, R97). -/
def pointFlag (dist : BitVec 16) : Bool := dist != 0

end Sys2Proof.Machine
end

