-- ==== Sys2Proof/Machine/Operands.lean ====
section
/-! DEFINITION. The operands of PROJECT and their conversions: the ROM index (`40_project.md` R82), the distance in
metres (R83) and the azimuth in radians (R84), over the block's constants. -/

namespace Sys2Proof.Machine

/-- The ROM index `k = ch mod 16 = ch[3:0]` (R82). -/
def romIndex (ch : BitVec 5) : BitVec 4 := ch.extractLsb' 0 4

/-- The firing group `ch[4]` (`30_encoding.md` R62): read by no stage of the datapath (R82). -/
def firingGroup (ch : BitVec 5) : Bool := ch.getLsbD 4

/-- `d = mul64(toF64(dist_raw), C_SCALE)`, metres (R83). -/
def distanceMetres (hw : Hardware) (dist : BitVec 16) : F64 := mul64 (toF64 dist) hw.cScale

/-- `azdeg = div64(toF64(az_raw), C_100)`, degrees (R84). -/
def azimuthDegrees (hw : Hardware) (az : BitVec 16) : F64 := div64 (toF64 az) hw.c100

/-- `azr = div64(mul64(azdeg, C_PI), C_180)`, radians (R84). -/
def azimuthRadians (hw : Hardware) (az : BitVec 16) : F64 :=
  degreesToRadians hw.cPi hw.c180 (azimuthDegrees hw az)

end Sys2Proof.Machine
end

