-- ==== Sys2Proof/Machine/Datapath.lean ====
section
/-! DEFINITION. The datapath of PROJECT: from a request to its response (`40_project.md` R80 to R89). -/

namespace Sys2Proof.Machine

/-- The horizontal range `xy = mul64(d, cv)`, metres (R87). -/
def horizontalRange (hw : Hardware) (ch : BitVec 5) (dist : BitVec 16) : F64 :=
  mul64 (distanceMetres hw dist) (romRead hw (romIndex ch)).cos

/-- `x64 = mul64(xy, sa)` (R85, R88). -/
def xCoordinate (T : Trig) (hw : Hardware) (r : Request) : F64 :=
  mul64 (horizontalRange hw r.ch r.dist) (T.sin64 (azimuthRadians hw r.az))

/-- `y64 = mul64(xy, ca)` (R85, R88). -/
def yCoordinate (T : Trig) (hw : Hardware) (r : Request) : F64 :=
  mul64 (horizontalRange hw r.ch r.dist) (T.cos64 (azimuthRadians hw r.az))

/-- `z64 = mul64(d, sv)` (R86, R88). -/
def zCoordinate (hw : Hardware) (r : Request) : F64 :=
  mul64 (distanceMetres hw r.dist) (romRead hw (romIndex r.ch)).sin

/-- "No point": `point = 0` and three zero words (R81). -/
def noPoint : Response where
  point := false
  x := 0
  y := 0
  z := 0

/-- The response of PROJECT to one request, for given sine and cosine (R80): no point for distance zero (R81), else the
three coordinates, each narrowed once (R89). It reads nothing but the request and the read-only storage (R91). -/
def project (T : Trig) (hw : Hardware) (r : Request) : Response :=
  if pointFlag r.dist then
    { point := true
      x := narrow32 (xCoordinate T hw r)
      y := narrow32 (yCoordinate T hw r)
      z := narrow32 (zCoordinate hw r) }
  else noPoint

/-- The response word `RSP = {rsp_point, rsp_x, rsp_y, rsp_z}` (`30_encoding.md` R63). -/
def responseWord (r : Response) : ResponseWord := BitVec.ofBool r.point ++ r.x ++ r.y ++ r.z

end Sys2Proof.Machine
end

