-- ==== Sys2Proof/Machine/Ops.lean ====
section
/-! DEFINITION. The shared operations on the state: the input pins, the response port, and what one rising edge does
to the pipeline (`10_state.md` R28, R29; `70_reset_and_hazards.md` R130 to R135). The block takes no exception
(`60_exceptions.md` R110, R114), so there is no exception entry and no return from one. -/

namespace Sys2Proof.Machine

/-- What the host does past the end of its list: it presents nothing and samples the response port (log 8). -/
def idleCycle : HostCycle where
  rst := false
  reqValid := false
  reqCh := 0
  reqAz := 0
  reqDist := 0
  takes := true

/-- What the host does in this cycle. -/
def currentCycle (s : State) : HostCycle := s.host.headD idleCycle

/-- The block accepts the request of a cycle exactly when `req_valid = 1` and `rst = 0` at its edge
(`30_encoding.md` R60). -/
def HostCycle.accepted (c : HostCycle) : Bool := c.reqValid && !c.rst

/-- The request on the pins of a cycle. -/
def HostCycle.request (c : HostCycle) : Request where
  ch := c.reqCh
  az := c.reqAz
  dist := c.reqDist

/-- The request word on the pins of a cycle: `REQ = {req_ch, req_az, req_dist}` (`30_encoding.md` R61). -/
def HostCycle.word (c : HostCycle) : RequestWord := c.reqCh ++ c.reqAz ++ c.reqDist

/-- The request accepted at the edge that ends a cycle, if one is. -/
def HostCycle.acceptedRequest (c : HostCycle) : Option Request := if c.accepted then some c.request else none

/-- The cycle in which the host presents one request and samples the response port. -/
def presentCycle (r : Request) : HostCycle where
  rst := false
  reqValid := true
  reqCh := r.ch
  reqAz := r.az
  reqDist := r.dist
  takes := true

/-- The request an operation is (R60). -/
def requestOf : Instr → Request
  | .project ch az dist => { ch := ch, az := az, dist := dist }

/-- The operation accepted at the edge that ends this cycle: the block's only "fetch" (R60, R64). -/
def fetch (s : State) : Option Instr :=
  if (currentCycle s).accepted then some (decode (currentCycle s).word) else none

/-- The response of this block to a request, with the default `P_TRIG`. -/
def respondTo (hw : Hardware) (r : Request) : Response := project trigCR hw r

/-- The five outputs of the response port (`30_encoding.md` R63). -/
structure Port where
  valid : Bool
  response : Response
deriving DecidableEq, Repr

/-- The free values an output shows when it carries no response (`10_state.md` R29). Log 6. -/
def freeResponse (n : Nat) : Response where
  point := Config.freePoint n
  x := Config.freeX n
  y := Config.freeY n
  z := Config.freeZ n

/-- The response port during a cycle in which `req` is accepted: the registers of R29 for `P_LATENCY ≥ 1`, the
combinational response to `req` for `P_LATENCY = 0` (`70_reset_and_hazards.md` R135). -/
def portWith (s : State) (req : Option Request) : Port :=
  if s.hw.latency = 0 then
    match req with
    | some r => { valid := true, response := respondTo s.hw r }
    | none => { valid := false, response := freeResponse s.edges }
  else
    { valid := s.rspValid
      response := { point := s.rspPoint, x := s.rspX, y := s.rspY, z := s.rspZ } }

/-- The response port during this cycle. -/
def State.port (s : State) : Port := portWith s (currentCycle s).acceptedRequest

/-- What the host has received after the edge: with the response on the port, if there is one and the host samples it
(`70_reset_and_hazards.md` R138). -/
def receivedAfter (s : State) (p : Port) : List Response :=
  if p.valid && (currentCycle s).takes then s.received ++ [p.response] else s.received

/-- The internal stages after an edge without reset: `req` enters stage 1 and every request moves on by one stage;
there are `P_LATENCY − 1` of them (R28). -/
def stagesAfter (s : State) (req : Option Request) : List (Option Request) :=
  (req :: s.stages).take (s.hw.latency - 1)

/-- The request whose response is loaded into the response registers at an edge without reset: the one that leaves the
last stage, for `P_LATENCY = 1` the one accepted at this edge (R28). For `P_LATENCY = 0` there are no response registers
and nothing is loaded (log 14). -/
def leaving (s : State) (req : Option Request) : Option Request :=
  if s.hw.latency = 0 then none else ((req :: s.stages)[s.hw.latency - 1]?).join

/-- The response registers after an edge at which `done` leaves the pipeline: its response with `rsp_valid = 1`, else
`rsp_valid = 0` and data of any value (R29, R135). -/
def loadResponse (s : State) (done : Option Request) : State :=
  match done with
  | some r =>
    { s with
      rspValid := true
      rspPoint := (respondTo s.hw r).point
      rspX := (respondTo s.hw r).x
      rspY := (respondTo s.hw r).y
      rspZ := (respondTo s.hw r).z }
  | none =>
    { s with
      rspValid := false
      rspPoint := (freeResponse s.edges).point
      rspX := (freeResponse s.edges).x
      rspY := (freeResponse s.edges).y
      rspZ := (freeResponse s.edges).z }

/-- The registers hold what the rules of the pipeline put there: a reset edge has been seen since power-up, or the
block, having latency 0, has no register (R28). Until then they hold any value (`70_reset_and_hazards.md` R136). -/
def State.settled (s : State) : Bool := s.wasReset || s.hw.latency == 0

/-- What stage `i` holds in cycle `n` before the first reset edge: a free valid bit and a free request (R136). Log 13.
-/
def powerUpStage (n i : Nat) : Option Request :=
  if Config.powerUpValid n i then
    some
      { ch := (Config.powerUpPayload n i).1
        az := (Config.powerUpPayload n i).2.1
        dist := (Config.powerUpPayload n i).2.2 }
  else none

/-- What the `P_LATENCY − 1` stages hold in cycle `n` before the first reset edge (R136). Log 13. -/
def powerUpStages (latency n : Nat) : List (Option Request) := (List.range (latency - 1)).map (powerUpStage n)

/-- What the response data registers hold in cycle `n` before the first reset edge: any response, whether PROJECT gives
it to some request or not (R136). Log 13. -/
def powerUpResponse (n : Nat) : Response where
  point := (Config.powerUpRsp n).1
  x := (Config.powerUpRsp n).2.1
  y := (Config.powerUpRsp n).2.2.1
  z := (Config.powerUpRsp n).2.2.2

/-- The registers in the cycle after an edge without reset that no reset edge has preceded: every stage, `rsp_valid` and
the response data hold any value, whatever was there and whatever was presented (R136). Log 13. -/
def unsettle (s : State) : State :=
  { s with
    stages := powerUpStages s.hw.latency (s.edges + 1)
    rspValid := Config.powerUpRspValid (s.edges + 1)
    rspPoint := (powerUpResponse (s.edges + 1)).point
    rspX := (powerUpResponse (s.edges + 1)).x
    rspY := (powerUpResponse (s.edges + 1)).y
    rspZ := (powerUpResponse (s.edges + 1)).z }

/-- The registers in the cycle after an edge without reset at which `req` is accepted, or nothing: the pipeline's once a
reset edge has been seen (R28, R29), any value before (R136). -/
def registersAfter (s : State) (req : Option Request) : State :=
  if s.settled then { loadResponse s (leaving s req) with stages := stagesAfter s req } else unsettle s

/-- The host's side of an edge: it has sampled port `p`, and its next cycle begins. -/
def hostAfter (s : State) (p : Port) : State :=
  { s with received := receivedAfter s p, host := s.host.tail, edges := s.edges + 1 }

/-- A rising edge with `rst = 0` at which `req` is accepted, or nothing (R28, R29, R135, R136). -/
def clockEdge (s : State) (req : Option Request) : State := hostAfter (registersAfter s req) (portWith s req)

/-- A rising edge with `rst = 1`: every stage emptied, `rsp_valid` cleared, no request accepted, the read-only storage
untouched (`70_reset_and_hazards.md` R130). From here on the registers are settled (R136). The host still samples the
port of the cycle that ends (R131). -/
def resetEdge (s : State) : State :=
  hostAfter { loadResponse s none with stages := List.replicate (s.hw.latency - 1) none, wasReset := true }
    (portWith s none)

/-- A rising edge at which nothing is accepted: a reset edge (R130), or an idle cycle (`30_encoding.md` R67). -/
def quietEdge (s : State) : State := if (currentCycle s).rst then resetEdge s else clockEdge s none

end Sys2Proof.Machine
end

