-- ==== Sys2Proof/Machine/Project.lean ====
section
/-! DEFINITION. The meaning of PROJECT (`40_project.md` R80). -/

namespace Sys2Proof.Machine

/-- PROJECT, accepted at the rising edge that ends this cycle: the request enters the pipeline, whose requests all move
on, and its response appears `P_LATENCY` cycles later (R80, `70_reset_and_hazards.md` R135); before the first reset edge
the registers it enters hold any value (R136). It never fails
(`60_exceptions.md` R110). -/
def execProject (ch : BitVec 5) (az dist : BitVec 16) (s : State) : Host.Outcome State Fault Refusal :=
  .next (clockEdge s (some { ch := ch, az := az, dist := dist }))

end Sys2Proof.Machine
end

