-- ==== Sys2Proof/Machine/Step.lean ====
section
/-! DEFINITION. One step: one rising edge, with the cycle that ends at it (`70_reset_and_hazards.md` R134). -/

namespace Sys2Proof.Machine

/-- One rising edge: the accepted request is executed; at an edge that accepts none, the block resets or idles. -/
def step (s : State) : Host.Outcome State Fault Refusal :=
  match fetch s with
  | some i => exec i s
  | none => .next (quietEdge s)

/-- The state in which the host presents the request word `w` in this cycle. Its later cycles stay as they are. A
request word has 37 bits (`30_encoding.md` R66), so no bit of `w` above them is looked at, and none above `nbits`. -/
def State.withFetchWord (s : State) (nbits w : Nat) : State :=
  { s with host := presentCycle (requestOf (decode (BitVec.ofNat 37 (w % 2 ^ nbits)))) :: s.host.tail }

end Sys2Proof.Machine
end

