-- ==== Sys2Proof/Machine/Assembler.lean ====
section
/-! DEFINITION. The assembler of `30_encoding.md` R68 to R71: from lines of text to statements, from statements to the
cycles of a host, and the listing of a response. What R68 leaves open of the text is log 16. -/

namespace Sys2Proof.Machine

/-- Why the assembler refuses a line. The assembler stands outside the block; the block never sees the line. Safe. -/
inductive AsmError where
  /-- An operand above its range: "it does not wrap or truncate it" (R68). -/
  | operandOutOfRange (value : Nat)
  /-- Not the number of operands the statement takes (R68 to R70). -/
  | operandCount
  /-- `IDLE 0`: R70 takes an integer `n ≥ 1`. -/
  | idleZero
  /-- A first word that is no statement (R68 to R70). -/
  | unknownStatement
  /-- An operand that is no unsigned integer literal (R68). -/
  | badLiteral
deriving DecidableEq, Repr

/-- `v` where it is below `limit`; refused elsewhere (R68). -/
def inRange (limit v : Nat) : Except AsmError Nat :=
  if v < limit then .ok v else .error (.operandOutOfRange v)

/-- The cycle of `PROJECT ch, az_raw, dist_raw` (R68). -/
def assembleProject (ch az dist : Nat) : Except AsmError HostCycle :=
  match inRange 32 ch, inRange 65536 az, inRange 65536 dist with
  | .ok c, .ok a, .ok d =>
    .ok (presentCycle { ch := BitVec.ofNat 5 c, az := BitVec.ofNat 16 a, dist := BitVec.ofNat 16 d })
  | .error e, _, _ => .error e
  | _, .error e, _ => .error e
  | _, _, .error e => .error e

/-- The PROJECT statements of the channels from `ch` on, one per distance (R69). -/
def expandBlockFrom (az : Nat) : Nat → List Nat → List Stmt
  | _, [] => []
  | ch, d :: ds => .project ch az d :: expandBlockFrom az (ch + 1) ds

/-- The expansion of `PROJECT.BLOCK az_raw, d0, ..., d31` (R69). -/
def expandBlock (az : Nat) (dists : List Nat) : List Stmt := expandBlockFrom az 0 dists

/-- The cycles of PROJECT statements that follow one another. -/
def assembleProjects : List Stmt → Except AsmError (List HostCycle)
  | [] => .ok []
  | .project ch az dist :: rest =>
    match assembleProject ch az dist, assembleProjects rest with
    | .ok c, .ok cs => .ok (c :: cs)
    | .error e, _ => .error e
    | _, .error e => .error e
  | _ :: _ => .error .unknownStatement

/-- The cycles of one statement (R68 to R70). -/
def assembleStmt : Stmt → Except AsmError (List HostCycle)
  | .project ch az dist => assembleProjects [.project ch az dist]
  | .block az dists =>
    if dists.length = 32 then assembleProjects (expandBlock az dists) else .error .operandCount
  | .idle n => if n = 0 then .error .idleZero else .ok (List.replicate n idleCycle)

/-- The cycles of a program: its statements' cycles, one after another (R68). -/
def assembleProgram : List Stmt → Except AsmError (List HostCycle)
  | [] => .ok []
  | st :: rest =>
    match assembleStmt st, assembleProgram rest with
    | .ok c, .ok cs => .ok (c ++ cs)
    | .error e, _ => .error e
    | _, .error e => .error e

/-- The request words a program assembles to: one for each cycle that presents a request, none for an idle cycle
(R68, R70). -/
def requestWords (cs : List HostCycle) : List RequestWord := (cs.filter (·.accepted)).map (·.word)

/-! The text of a program, as characters. -/

/-- A blank inside a line. -/
def isBlank (c : Char) : Bool := c == ' ' || c == '\t' || c == '\r'

/-- A line without the blanks at its ends. -/
def trimBlanks (cs : List Char) : List Char := (((cs.dropWhile isBlank).reverse).dropWhile isBlank).reverse

/-- The pieces of a line between separators. -/
def splitAtChar (sep : Char) : List Char → List (List Char)
  | [] => [[]]
  | c :: cs =>
    if c == sep then [] :: splitAtChar sep cs
    else
      match splitAtChar sep cs with
      | [] => [[c]]
      | p :: ps => (c :: p) :: ps

/-- The value of a digit in a base of at most 16. -/
def digitValue (base : Nat) (c : Char) : Option Nat :=
  let v :=
    if '0'.toNat ≤ c.toNat ∧ c.toNat ≤ '9'.toNat then c.toNat - '0'.toNat
    else if 'a'.toNat ≤ c.toNat ∧ c.toNat ≤ 'f'.toNat then c.toNat - 'a'.toNat + 10
    else if 'A'.toNat ≤ c.toNat ∧ c.toNat ≤ 'F'.toNat then c.toNat - 'A'.toNat + 10
    else 16
  if v < base then some v else none

/-- The number a run of digits stands for, after the digits already read. -/
def digitsValue (base acc : Nat) : List Char → Option Nat
  | [] => some acc
  | c :: cs =>
    match digitValue base c with
    | some v => digitsValue base (acc * base + v) cs
    | none => none

/-- An unsigned integer literal: decimal, or hexadecimal after `0x` (R68). -/
def parseLiteral : List Char → Option Nat
  | [] => none
  | '0' :: 'x' :: [] => none
  | '0' :: 'x' :: cs => digitsValue 16 0 cs
  | cs => digitsValue 10 0 cs

/-- All of the values, if none is missing. -/
def allPresent : List (Option Nat) → Option (List Nat)
  | [] => some []
  | none :: _ => none
  | some v :: vs => (allPresent vs).map (v :: ·)

/-- The operands of a statement, separated by commas (R68); no text is no operand. -/
def parseOperands (cs : List Char) : Option (List Nat) :=
  if cs.isEmpty then some [] else allPresent ((splitAtChar ',' cs).map fun p => parseLiteral (trimBlanks p))

/-- The word `PROJECT` (R68). -/
def projectWord : List Char := ['P', 'R', 'O', 'J', 'E', 'C', 'T']

/-- The word `PROJECT.BLOCK` (R69). -/
def blockWord : List Char := projectWord ++ ['.', 'B', 'L', 'O', 'C', 'K']

/-- The word `IDLE` (R70). -/
def idleWord : List Char := ['I', 'D', 'L', 'E']

/-- The statement of a first word and its operands (R68 to R70); `IDLE` alone is `IDLE 1` (R70). -/
def parseStmt (word : List Char) (ops : List Nat) : Except AsmError Stmt :=
  if word = projectWord then
    match ops with
    | [ch, az, dist] => .ok (.project ch az dist)
    | _ => .error .operandCount
  else if word = blockWord then
    match ops with
    | az :: dists => .ok (.block az dists)
    | [] => .error .operandCount
  else if word = idleWord then
    match ops with
    | [] => .ok (.idle 1)
    | [n] => .ok (.idle n)
    | _ => .error .operandCount
  else .error .unknownStatement

/-- One line: a statement, with or without a comment after `;`, or nothing (R68). -/
def parseLine (line : List Char) : Except AsmError (Option Stmt) :=
  match trimBlanks (line.takeWhile (· != ';')) with
  | [] => .ok none
  | c :: cs =>
    match parseOperands (trimBlanks ((c :: cs).dropWhile fun x => !isBlank x)) with
    | none => .error .badLiteral
    | some ops => (parseStmt ((c :: cs).takeWhile fun x => !isBlank x) ops).map some

/-- The statements of a list of lines. -/
def parseLines : List (List Char) → Except AsmError (List Stmt)
  | [] => .ok []
  | l :: ls =>
    match parseLine l, parseLines ls with
    | .ok none, .ok sts => .ok sts
    | .ok (some st), .ok sts => .ok (st :: sts)
    | .error e, _ => .error e
    | _, .error e => .error e

/-- The cycles a program text assembles to (R68). -/
def assembleText (text : List Char) : Except AsmError (List HostCycle) :=
  match parseLines (splitAtChar '\n' text) with
  | .ok sts => assembleProgram sts
  | .error e => .error e

/-- A hexadecimal digit, capital as in the spec's listings. -/
def hexDigit (v : Nat) : Char := if v < 10 then Char.ofNat ('0'.toNat + v) else Char.ofNat ('A'.toNat + (v - 10))

/-- `n` hexadecimal digits of a number, the most significant first. -/
def hexDigits : Nat → Nat → List Char
  | 0, _ => []
  | n + 1, v => hexDigits n (v / 16) ++ [hexDigit (v % 16)]

/-- A binary32 pattern as a listing shows it (R71). -/
def listWord (v : F32) : List Char := ['0', 'x'] ++ hexDigits 8 v.toNat

/-- A response as a listing shows it: `-> POINT x, y, z` or `-> NOPOINT` (R71). -/
def listResponse (r : Response) : List Char :=
  if r.point then
    ['-', '>', ' ', 'P', 'O', 'I', 'N', 'T', ' '] ++ listWord r.x ++ [',', ' '] ++ listWord r.y ++ [',', ' ']
      ++ listWord r.z
  else ['-', '>', ' ', 'N', 'O', 'P', 'O', 'I', 'N', 'T']

end Sys2Proof.Machine
end

