-- ==== Sys2Proof/Machine/Boot.lean ====
section
/-! DEFINITION. Power-up (`70_reset_and_hazards.md` R136): before the first reset edge every register holds any value;
the read-only storage is as built (R133). -/

namespace Sys2Proof.Machine

/-- The block at power-up, under a host that will do `host` (R136): no reset edge has been seen, and every register holds
any value. Edges without reset leave it so (`unsettle`); the first reset edge ends it (`resetEdge`). For `P_LATENCY = 0`
there is no stage and no response register (R28), so nothing is free. -/
def State.powerUp (host : List HostCycle) : State where
  hw := buildHardware trigCR Config.vangle Config.latency
  stages := powerUpStages Config.latency 0
  rspValid := decide (Config.latency ≠ 0) && Config.powerUpRspValid 0
  rspPoint := (powerUpResponse 0).point
  rspX := (powerUpResponse 0).x
  rspY := (powerUpResponse 0).y
  rspZ := (powerUpResponse 0).z
  wasReset := false
  host := host
  received := []
  edges := 0

end Sys2Proof.Machine
end

