-- ==== Sys2Proof/Machine/HostSide.lean ====
section
/-! DEFINITION. The host's side of the boundary: the two raw fields of a data block (`20_memory.md` R40, R41, R45), the
requests of one block and what the host keeps of the responses (R51). The block itself checks none of it. -/

namespace Sys2Proof.Machine

/-- A data block of a payload: 100 bytes, from the flag at offset 0 to channel 31's intensity at offset 99 (R40,
`95_test_vectors.md` section 2.2). Log 15. -/
abbrev DataBlock := Vector Byte 100

/-- A little-endian 16-bit field, assembled from single bytes (R40, R45). -/
def littleEndian16 (low high : Byte) : BitVec 16 := high ++ low

/-- `az_raw` of a data block: the field at offsets 2 and 3 (R41). -/
def azField (b : DataBlock) : BitVec 16 := littleEndian16 b[2] b[3]

/-- `dist_raw` of channel `i`: the field at offsets `4 + 3i` and `5 + 3i` (R40). -/
def distField (b : DataBlock) (i : Fin 32) : BitVec 16 :=
  littleEndian16 (b[4 + 3 * i.val]'(by omega)) (b[5 + 3 * i.val]'(by omega))

/-- The request of channel `i` of a data block (R51). -/
def channelRequest (b : DataBlock) (i : Fin 32) : Request where
  ch := BitVec.ofFin i
  az := azField b
  dist := distField b i

/-- The 32 requests of one valid data block, in channel order (R51). -/
def blockRequests (b : DataBlock) : List Request := (List.finRange 32).map (channelRequest b)

/-- The cycles in which the host presents one data block, one request per cycle (R51, `70_reset_and_hazards.md` R137). -/
def blockProgram (b : DataBlock) : List HostCycle := (blockRequests b).map presentCycle

/-- What the host appends to its frame: each response with `point = 1`, in order; it drops the others (R51). -/
def framePoints (rs : List Response) : List Response := rs.filter (·.point)

end Sys2Proof.Machine
end

