-- ==== Sys2Proof/Safety.lean ====
section
/-! DEFINITION. The terms the statements use: the model's invariant, the reset state, what the block still owes, what
it accepts over a run of cycles, and the real values of binary patterns with what "rounded to nearest, ties to even"
says of them. -/

namespace Sys2Proof.Machine

/-- A state of a real block: `P_LATENCY − 1` stages (`10_state.md` R28), and no response register that could be valid
where `P_LATENCY = 0` (`70_reset_and_hazards.md` R130). -/
abbrev State.Wf (s : State) : Prop :=
  s.stages.length = s.hw.latency - 1 ∧ (s.hw.latency = 0 → s.rspValid = false)

/-- The reset state of R30: every stage empty and `rsp_valid = 0`. -/
abbrev State.Quiescent (s : State) : Prop :=
  s.stages = List.replicate (s.hw.latency - 1) none ∧ s.rspValid = false

/-- The response in the response registers. -/
def State.registers (s : State) : Response where
  point := s.rspPoint
  x := s.rspX
  y := s.rspY
  z := s.rspZ

/-- The requests in the internal stages, oldest first: the last stage holds the oldest (R28). -/
def State.inFlight (s : State) : List Request := s.stages.reverse.filterMap id

/-- The responses the block still owes, oldest first: the one in the response registers, then those of the requests in
the stages (`20_memory.md` R48). -/
def State.owed (s : State) : List Response :=
  (if s.rspValid then [s.registers] else []) ++ s.inFlight.map (respondTo s.hw)

/-- What the host does in cycle `i` of a list of cycles; past its end it is idle. -/
def cycleAt (host : List HostCycle) (i : Nat) : HostCycle := host.getD i idleCycle

/-- The requests accepted at the first `n` edges under a host (`30_encoding.md` R60), in order. -/
def acceptedIn (n : Nat) (host : List HostCycle) : List Request := (host.take n).filterMap HostCycle.acceptedRequest

/-- No reset at the first `n` edges. -/
abbrev noReset (n : Nat) (host : List HostCycle) : Prop := ∀ c ∈ host.take n, c.rst = false

/-- The host samples the response port in each of the first `n` cycles (`70_reset_and_hazards.md` R138). -/
abbrev allTaken (n : Nat) (host : List HostCycle) : Prop := ∀ c ∈ host.take n, c.takes = true

/-- `t` is the state after `n` edges from `s`. -/
abbrev ReachesIn (n : Nat) (s t : State) : Prop := Host.Core.run Sys2Proof.core n s = .next t

/-- The constants are those of `10_state.md` R21. -/
abbrev Hardware.SpecConstants (hw : Hardware) : Prop :=
  hw.cScale = constScale ∧ hw.c100 = const100 ∧ hw.cPi = constPi ∧ hw.c180 = const180

/-- An unsigned integer literal of a program text, as `30_encoding.md` R68 allows it: decimal, or hexadecimal after
`0x`. Each digit is its value and whether a letter is written small. -/
structure Literal where
  hex : Bool
  digits : List (Nat × Bool)
deriving DecidableEq, Repr

/-- The base of a literal. -/
def Literal.base (l : Literal) : Nat := if l.hex then 16 else 10

/-- The literal has a digit, and each digit is below the base. -/
abbrev Literal.Wf (l : Literal) : Prop := l.digits ≠ [] ∧ ∀ d ∈ l.digits, d.1 < l.base

/-- The number a literal stands for, its first digit the most significant. -/
def Literal.value (l : Literal) : Nat := l.digits.foldl (fun acc d => acc * l.base + d.1) 0

/-- The character of a digit. -/
def digitChar (d : Nat × Bool) : Char :=
  (if d.2 then ['0', '1', '2', '3', '4', '5', '6', '7', '8', '9', 'a', 'b', 'c', 'd', 'e', 'f']
    else ['0', '1', '2', '3', '4', '5', '6', '7', '8', '9', 'A', 'B', 'C', 'D', 'E', 'F']).getD d.1 '?'

/-- The characters of a literal. -/
def Literal.text (l : Literal) : List Char := (if l.hex then ['0', 'x'] else []) ++ l.digits.map digitChar

/-- The characters of an operand list: a comma between each two, blanks before and after it. -/
def operandsText (before after : List Char) : List Literal → List Char
  | [] => []
  | [l] => l.text
  | l :: ls => l.text ++ before ++ [','] ++ after ++ operandsText before after ls

/-- Blanks only. -/
abbrev AllBlank (cs : List Char) : Prop := cs.all isBlank = true

/-- The end of a line: nothing, or a comment after `;` (R68). -/
abbrev LineEnd (cs : List Char) : Prop := cs = [] ∨ ∃ comment, cs = ';' :: comment

/-- How a line is laid out about its word and its operands: blanks before the word, after it, before and after each
comma and at the end, and the line's end. Log 16. -/
structure LineForm where
  lead : List Char
  gap : List Char
  before : List Char
  after : List Char
  trail : List Char
  lineEnd : List Char
deriving DecidableEq, Repr

/-- The blanks are blanks, at least one stands after the word, and the line ends as R68 allows. -/
abbrev LineForm.Wf (f : LineForm) : Prop :=
  AllBlank f.lead ∧ AllBlank f.gap ∧ f.gap ≠ [] ∧ AllBlank f.before ∧ AllBlank f.after ∧ AllBlank f.trail ∧
  LineEnd f.lineEnd

/-- The line of a word and its operands (R68 to R70). -/
def LineForm.line (f : LineForm) (word : List Char) (ops : List Literal) : List Char :=
  f.lead ++ word ++ (if ops.isEmpty then [] else f.gap) ++ operandsText f.before f.after ops ++ f.trail ++ f.lineEnd

/-- Lines as one text, a line break between each two (R68). -/
def joinLines : List (List Char) → List Char
  | [] => []
  | [l] => l
  | l :: ls => l ++ ['\n'] ++ joinLines ls

/-- The value of a finite binary64 pattern (`00_scope.md` R9). -/
def value64 (v : F64) : ℚ :=
  (if sign64 v then -1 else 1) * ((numerator64 v : ℚ) / (denominator64 v : ℚ))

/-- The value of a finite binary32 pattern (R9): `± significand · 2^(max exponent 1 − 150)`. -/
def value32 (v : F32) : ℚ :=
  (if sign32 v then -1 else 1) * (((significand32 v * 2 ^ max (exponent32 v) 1 : Nat) : ℚ) / ((2 ^ 150 : Nat) : ℚ))

/-- The largest finite binary64 value. -/
def maxFinite64 : ℚ := value64 0x7FEFFFFFFFFFFFFF

/-- The largest finite binary32 value. -/
def maxFinite32 : ℚ := value32 0x7F7FFFFF

/-- `v` is the real number `r` rounded to binary64, to nearest, ties to even (R10): no finite value is nearer, and where
another is equally near, `v` is the even one. -/
def RoundedTo64 (v : F64) (r : ℝ) : Prop :=
  finite64 v = true ∧
  ∀ c : F64, finite64 c = true →
    |((value64 v : ℚ) : ℝ) - r| ≤ |((value64 c : ℚ) : ℝ) - r| ∧
    (value64 c ≠ value64 v → |((value64 v : ℚ) : ℝ) - r| = |((value64 c : ℚ) : ℝ) - r| → fraction64 v % 2 = 0)

/-- `v` is the real number `r` rounded to binary32, to nearest, ties to even (R12). -/
def RoundedTo32 (v : F32) (r : ℝ) : Prop :=
  finite32 v = true ∧
  ∀ c : F32, finite32 c = true →
    |((value32 v : ℚ) : ℝ) - r| ≤ |((value32 c : ℚ) : ℝ) - r| ∧
    (value32 c ≠ value32 v → |((value32 v : ℚ) : ℝ) - r| = |((value32 c : ℚ) : ℝ) - r| → fraction32 v % 2 = 0)

/-- The value of a binary64 result is finite and at most `bound` in magnitude. -/
abbrev Within64 (v : F64) (bound : ℚ) : Prop := finite64 v = true ∧ |value64 v| ≤ bound

/-- The value of a binary32 result is finite and at most `bound` in magnitude. -/
abbrev Within32 (v : F32) (bound : ℚ) : Prop := finite32 v = true ∧ |value32 v| ≤ bound

/-- A binary32 coordinate that is +0, or a normal value with a magnitude in a range: finite, no NaN, not subnormal, not
-0 (`40_project.md` R90). -/
abbrev ZeroOrNormalIn (v : F32) (low high : ℚ) : Prop :=
  finite32 v = true ∧ (v = 0 ∨ (exponent32 v ≠ 0 ∧ low ≤ |value32 v| ∧ |value32 v| ≤ high))

end Sys2Proof.Machine
end

