-- ==== Sys2Proof/Certificates/Slice0/Obligations.lean ====
section
/-! DEFINITION. The statements for the provers, each after a rule of `spec/`. -/

open Sys2Proof Sys2Proof.Machine

/-! ## Encoding -/

/-- R61: `REQ = {req_ch, req_az, req_dist} = ch × 2^32 + az_raw × 2^16 + dist_raw`, with each field at its bits. -/
def Obligations.EncodeIsPackedFields : Prop :=
  ∀ (ch : BitVec 5) (az dist : BitVec 16),
    (encode (.project ch az dist)).toNat = ch.toNat * 2 ^ 32 + az.toNat * 2 ^ 16 + dist.toNat ∧
    (encode (.project ch az dist)).getLsbD 36 = firingGroup ch ∧
    (encode (.project ch az dist)).extractLsb' 32 4 = romIndex ch ∧
    (encode (.project ch az dist)).extractLsb' 16 16 = az ∧
    (encode (.project ch az dist)).extractLsb' 0 16 = dist

/-- R62: plain field extraction of `ch`, `k`, `grp`, `az_raw` and `dist_raw`, and no other operand. -/
def Obligations.DecodeIsFieldExtraction : Prop :=
  ∀ w : RequestWord, ∃ ch az dist, decode w = .project ch az dist ∧
    ch.toNat = w.toNat / 2 ^ 32 ∧
    (romIndex ch).toNat = w.toNat / 2 ^ 32 % 16 ∧
    (firingGroup ch = true ↔ w.toNat / 2 ^ 36 = 1) ∧
    az.toNat = w.toNat / 2 ^ 16 % 2 ^ 16 ∧
    dist.toNat = w.toNat % 2 ^ 16

/-- Every one of the 2^37 request words selects PROJECT (R64), and every PROJECT is the decoding of exactly one word
(R61, R62, R66). -/
def Obligations.EveryWordIsOneProject : Prop :=
  (∀ w : RequestWord, ∃ ch az dist, decode w = .project ch az dist) ∧
  (∀ i : Instr, ∃ w : RequestWord, decode w = i ∧ ∀ w' : RequestWord, decode w' = i → w' = w)

/-- Decode and encode agree on bytes, both ways: the bytes of an operation, followed by any bytes, are read as it with
those bytes left; and bytes that are read as an operation are its bytes followed by what is left. The byte container is
the model's choice (log 11). -/
def Obligations.DecodeEncodeBytesAgree : Prop :=
  (∀ (i : Instr) (rest : List Byte), decodeBytes (encodeBytes i ++ rest) = .ok (i, rest)) ∧
  (∀ (bs rest : List Byte) (i : Instr), decodeBytes bs = .ok (i, rest) → bs = encodeBytes i ++ rest)

/-- Request words of the spec's own vectors decode as the spec lists them (`95_test_vectors.md` section 2.1). -/
def Obligations.SpecWordsDecode : Prop :=
  decodeTableWord 40 0x0000001388 = some (.project 0 0 5000) ∧
  decodeTableWord 40 0x1F30390000 = some (.project 31 12345 0) ∧
  decodeTableWord 40 0x0F1194FFFF = some (.project 15 4500 65535) ∧
  decodeTableWord 40 0x13FFFF03E8 = some (.project 19 65535 1000)

/-! ## Steps -/

/-- A step runs the accepted operation: where the pins carry a request and `rst = 0`, the step is PROJECT on exactly the
values of `req_ch`, `req_az` and `req_dist` (R60); elsewhere no operation runs. -/
def Obligations.StepRunsAcceptedRequest : Prop :=
  ∀ s : State,
    (((currentCycle s).reqValid = true ∧ (currentCycle s).rst = false) →
      step s = exec (.project (currentCycle s).reqCh (currentCycle s).reqAz (currentCycle s).reqDist) s) ∧
    (¬((currentCycle s).reqValid = true ∧ (currentCycle s).rst = false) → step s = .next (quietEdge s))

/-- A request word placed on the port is the operation the next step runs, in any state. -/
def Obligations.StepRunsWithFetchWord : Prop :=
  ∀ (s : State) (i : Instr),
    step (s.withFetchWord 40 (encode i).toNat) = exec i (s.withFetchWord 40 (encode i).toNat)

/-- R110: from every state, with any request word, in reset or idle, a step has a next state. -/
def Obligations.StepNeverStops : Prop :=
  ∀ (n : Nat) (s : State), ∃ t, ReachesIn n s t

/-- PROJECT completes in every state of a real block. Once a reset edge has been seen, the request enters stage 1 (or,
with latency 1, its response is loaded; with latency 0 it is given to the host in the same cycle), the others move on,
and the last stage's response is loaded (R28, R135). Before the first reset edge the registers hold any value after it
(R136, log 13). The frame: the constants and the ROM stay, and one host cycle and one edge pass (logs 6, 8, 9). -/
def Obligations.ProjectCompletes : Prop :=
  ∀ (ch : BitVec 5) (az dist : BitVec 16) (s : State), s.Wf →
    ∃ t, exec (.project ch az dist) s = .next t ∧
      t.hw = s.hw ∧ t.host = s.host.tail ∧ t.edges = s.edges + 1 ∧ t.wasReset = s.wasReset ∧
      (s.hw.latency = 0 →
        t.stages = [] ∧ t.rspValid = false ∧
        t.received = if (currentCycle s).takes then s.received ++ [respondTo s.hw ⟨ch, az, dist⟩] else s.received) ∧
      (1 ≤ s.hw.latency →
        t.received = if s.rspValid && (currentCycle s).takes then s.received ++ [s.registers] else s.received) ∧
      (s.wasReset = true → s.hw.latency = 1 →
        t.stages = [] ∧ t.rspValid = true ∧ t.registers = respondTo s.hw ⟨ch, az, dist⟩) ∧
      (s.wasReset = true → 2 ≤ s.hw.latency →
        t.stages = some ⟨ch, az, dist⟩ :: s.stages.dropLast ∧
        t.rspValid = (s.stages.getLast?.join).isSome ∧
        (∀ r, s.stages.getLast? = some (some r) → t.registers = respondTo s.hw r)) ∧
      (s.wasReset = false → 1 ≤ s.hw.latency →
        t.stages = powerUpStages s.hw.latency t.edges ∧ t.rspValid = Config.powerUpRspValid t.edges ∧
        t.registers = powerUpResponse t.edges)

/-- R67: in a cycle with `req_valid = 0` the values on the request port are ignored: they affect no state and no
response. -/
def Obligations.IdlePinsAreIgnored : Prop :=
  ∀ (s : State) (c c' : HostCycle) (rest : List HostCycle),
    c.reqValid = false → c'.reqValid = false → c.rst = c'.rst → c.takes = c'.takes →
    step { s with host := c :: rest } = step { s with host := c' :: rest } ∧
    ({ s with host := c :: rest } : State).port = ({ s with host := c' :: rest } : State).port

/-- At a rising edge with `rst = 1` every stage is emptied, `rsp_valid` is cleared, no request is accepted whatever
`req_valid` holds, and the read-only storage is unchanged; one such edge reaches the reset state from any state at all
(R130). With latency 0 the port shows no response in that cycle (R135), so the host's record (log 9) stays; the host's
list (log 8) moves on by one cycle. -/
def Obligations.ResetEdgeReachesResetState : Prop :=
  ∀ s : State, (currentCycle s).rst = true →
    ∃ t, step s = .next t ∧ t.Quiescent ∧ t.Wf ∧ t.wasReset = true ∧ t.hw = s.hw ∧ t.host = s.host.tail ∧
      fetch s = none ∧ (s.hw.latency = 0 → s.port.valid = false ∧ t.received = s.received)

/-- From power-up, where every register holds any value (R136, log 13), after any number of edges, a reset edge
reaches the reset state (R130), with the read-only storage of the default block (default angles: log 3). The host's list
is the model's own (log 8). -/
def Obligations.PowerUpThenReset : Prop :=
  ∀ (n : Nat) (host : List HostCycle), (cycleAt host n).rst = true →
    ∃ t, ReachesIn (n + 1) (State.powerUp host) t ∧ t.Quiescent ∧ t.Wf ∧ t.wasReset = true ∧
      t.hw = State.reset.hw ∧ t.host = host.drop (n + 1)

/-- The state after reset (R30): every stage empty, `rsp_valid = 0`, the constants of R21, the ROM of R23 (default angles:
log 3). It is the state that a reset edge leaves, so its registers are settled (log 13). -/
def Obligations.ResetStateAsStated : Prop :=
  State.reset.Quiescent ∧ State.reset.settled = true ∧ State.reset.hw.SpecConstants ∧
  (∀ k : BitVec 4, romRead State.reset.hw k = romEntry trigCR (Config.vangle[k.toNat]'k.isLt))

/-! ## Invariants -/

/-- The invariant of a real block holds after reset. -/
def Obligations.ResetIsWellFormed : Prop := State.reset.Wf

/-- Every step keeps the invariant: there are always `P_LATENCY − 1` stages, and with latency 0 no response register is
ever valid (R28, R130). -/
def Obligations.StepKeepsWellFormed : Prop :=
  ∀ s t : State, s.Wf → step s = .next t → t.Wf

/-- R133, with R27: the constants and the ROM are the same after any run, reset edges among it. -/
def Obligations.RomSurvivesEveryRun : Prop :=
  ∀ (n : Nat) (s t : State), ReachesIn n s t → t.hw = s.hw

/-- R23: entry `k` of the ROM holds the cosine and sine of the angle, converted once to radians, for every choice of
`P_TRIG`, `P_VANGLE` and latency. -/
def Obligations.RomHoldsCosAndSin : Prop :=
  ∀ (T : Trig) (vangle : Vector F64 16) (latency : Nat) (k : BitVec 4),
    (romRead (buildHardware T vangle latency) k).cos
      = T.cos64 (div64 (mul64 (vangle[k.toNat]'k.isLt) constPi) const180) ∧
    (romRead (buildHardware T vangle latency) k).sin
      = T.sin64 (div64 (mul64 (vangle[k.toNat]'k.isLt) constPi) const180)

/-! ## Timing -/

/-- R135: a request accepted at edge `c`, with no reset at the edges `c + 1` to `c + L − 1`, is presented in cycle
`c + L`, with `rsp_valid = 1`, in a block that has been reset (R136) or has latency 0; where no request was accepted at
edge `c`, `rsp_valid = 0` in that cycle. For `L = 0` that is the cycle of the request itself, and
`rsp_valid = req_valid ∧ ¬rst`. -/
def Obligations.ResponsePresentedAfterLatency : Prop :=
  ∀ s : State, s.Wf → s.settled = true →
    (∀ i, 1 ≤ i → i < s.hw.latency → (cycleAt s.host i).rst = false) →
    ∃ t, ReachesIn s.hw.latency s t ∧
      (t.port.valid = true ↔ (currentCycle s).reqValid = true ∧ (currentCycle s).rst = false) ∧
      (((currentCycle s).reqValid = true ∧ (currentCycle s).rst = false) →
        t.port.response = respondTo s.hw (currentCycle s).request)

/-- With a latency of at least 1 the outputs are registered: the port shows the response registers for the whole cycle,
whatever is on the input pins (R29, R134). -/
def Obligations.RegisteredOutputsIgnorePins : Prop :=
  ∀ (s : State) (host : List HostCycle), 1 ≤ s.hw.latency →
    s.port = { valid := s.rspValid, response := s.registers } ∧ ({ s with host := host } : State).port = s.port

/-- In a block that has been reset (R136), a request occupies stage `j` in cycle `c + j`, for `1 ≤ j ≤ L − 1`, if no
reset falls between (R28). -/
def Obligations.RequestOccupiesStage : Prop :=
  ∀ (s : State) (j : Nat), s.Wf → s.settled = true → 1 ≤ j → j < s.hw.latency →
    (currentCycle s).accepted = true →
    (∀ i, 1 ≤ i → i < j → (cycleAt s.host i).rst = false) →
    ∃ t, ReachesIn j s t ∧ t.stages[j - 1]? = some (some (currentCycle s).request)

/-- A request in the internal stages at a reset edge is dropped: with a reset at any of the edges `c + 1` to
`c + L − 1`, no response is presented in cycle `c + L` (R131). -/
def Obligations.ResetDropsRequest : Prop :=
  ∀ (s : State) (i : Nat), s.Wf → 1 ≤ i → i < s.hw.latency → (cycleAt s.host i).rst = true →
    ∃ t, ReachesIn s.hw.latency s t ∧ t.port.valid = false

/-- A dropped request leaves no trace (R131): two runs that differ only in what is presented in their first cycle, with
no reset at its edge, are in the same state after the edge of a reset that drops it. -/
def Obligations.DroppedRequestLeavesNoTrace : Prop :=
  ∀ (s : State) (c c' : HostCycle) (rest : List HostCycle) (i : Nat),
    s.Wf → c.rst = false → c'.rst = false → c.takes = c'.takes →
    i + 1 < s.hw.latency → (cycleAt rest i).rst = true →
    ∃ t, ReachesIn (i + 2) { s with host := c :: rest } t ∧ ReachesIn (i + 2) { s with host := c' :: rest } t

/-- Where the host presents nothing, a block that has been reset (R136) or has latency 0 drains: after `P_LATENCY` edges
without an accepted request it is in the reset state (R112). -/
def Obligations.BlockDrains : Prop :=
  ∀ s : State, s.Wf → s.settled = true → acceptedIn s.hw.latency s.host = [] →
    ∃ t, ReachesIn s.hw.latency s t ∧ t.Quiescent

/-! ## Order -/

/-- R48: over any run, without a further reset, of a block that has been reset (R136) or has latency 0, and whose
responses the host samples, what the host has received and what the block still owes is what it was, followed by one
response for each accepted request, in the order of acceptance, each the response to its own request: none lost,
duplicated, reordered or made up. -/
def Obligations.ResponsesInOrderOfAcceptance : Prop :=
  ∀ (n : Nat) (s : State), s.Wf → s.settled = true → noReset n s.host → allTaken n s.host →
    ∃ t, ReachesIn n s t ∧
      t.received ++ t.owed = s.received ++ s.owed ++ (acceptedIn n s.host).map (respondTo s.hw)

/-- R132: after a reset edge the block owes nothing, the responses that follow are exactly those of the requests
accepted after reset, in order, and between reset and the first response `rsp_valid = 0` in every cycle. -/
def Obligations.AfterResetOnlyNewResponses : Prop :=
  ∀ (n : Nat) (s t : State), s.Wf → (currentCycle s).rst = true → step s = .next t →
    noReset n t.host → allTaken n t.host →
    ∃ u, ReachesIn n t u ∧
      u.received ++ u.owed = t.received ++ (acceptedIn n t.host).map (respondTo s.hw) ∧
      (noReset (n + 1) t.host → acceptedIn (n + 1 - s.hw.latency) t.host = [] → u.port.valid = false)

/-- The transaction level (R139): from a block in the reset state, after a reset edge (R136) or with latency 0, once the
host has presented all its cycles without reset and `P_LATENCY` more cycles have passed, what the host has received is
PROJECT applied to the sequence of accepted requests, for every latency. -/
def Obligations.RunIsProjectMappedOverRequests : Prop :=
  ∀ s : State, s.Wf → s.settled = true → s.Quiescent → noReset s.host.length s.host → allTaken s.host.length s.host →
    ∃ t, ReachesIn (s.host.length + s.hw.latency) s t ∧
      t.received = s.received ++ (acceptedIn s.host.length s.host).map (respondTo s.hw)

/-- One data block, presented to a block in the reset state, after a reset edge (R136) or with latency 0: the host
receives its 32 responses in channel order, and its frame gains the points among them (R51). -/
def Obligations.DataBlockGivesResponsesInChannelOrder : Prop :=
  ∀ (s : State) (b : DataBlock), s.Wf → s.settled = true → s.Quiescent → s.host = blockProgram b →
    ∃ t, ReachesIn (32 + s.hw.latency) s t ∧
      t.received = s.received ++ (List.finRange 32).map (fun i => respondTo s.hw (channelRequest b i)) ∧
      framePoints t.received = framePoints s.received ++
        ((List.finRange 32).filter (fun i => distField b i != 0)).map fun i => respondTo s.hw (channelRequest b i)

/-- A response the host does not sample in its cycle is lost to it, and nothing else changes (R138). -/
def Obligations.UnsampledResponseIsLost : Prop :=
  ∀ (s : State) (c : HostCycle) (rest : List HostCycle),
    ∃ t, step { s with host := { c with takes := true } :: rest } = .next t ∧
      step { s with host := { c with takes := false } :: rest } = .next { t with received := s.received } ∧
      (({ s with host := c :: rest } : State).port.valid = true →
        t.received = s.received ++ [({ s with host := c :: rest } : State).port.response])

/-- R91: the response presented for a request is a function of `(ch[3:0], az_raw, dist_raw)` for fixed constants and
ROM: two blocks, each reset before (R136) or of latency 0, with the same read-only storage, whatever their latencies,
their pipelines' contents, their pasts and their other requests, present the same response to requests that agree in
those fields. -/
def Obligations.ResponseDependsOnRequestAlone : Prop :=
  ∀ s s' t t' : State, s.Wf → s'.Wf → s.settled = true → s'.settled = true →
    s'.hw = { s.hw with latency := s'.hw.latency } →
    (currentCycle s).accepted = true → (currentCycle s').accepted = true →
    (∀ i, 1 ≤ i → i < s.hw.latency → (cycleAt s.host i).rst = false) →
    (∀ i, 1 ≤ i → i < s'.hw.latency → (cycleAt s'.host i).rst = false) →
    romIndex (currentCycle s).reqCh = romIndex (currentCycle s').reqCh →
    (currentCycle s).reqAz = (currentCycle s').reqAz → (currentCycle s).reqDist = (currentCycle s').reqDist →
    ReachesIn s.hw.latency s t → ReachesIn s'.hw.latency s' t' →
    t.port.valid = true ∧ t'.port = t.port

/-! ## The operation -/

/-- R80: the pseudocode, written out, for every request: no point for distance zero; else each coordinate is the
narrowed product of separately rounded steps. And the worked example, whose ROM entry 0 is the source's. -/
def Obligations.ProjectFollowsPseudocode : Prop :=
  (∀ (T : Trig) (hw : Hardware) (ch : BitVec 5) (az dist : BitVec 16), hw.SpecConstants →
    let d := mul64 (toF64 dist) 0x3F60624DD2F1A9FC
    let azdeg := div64 (toF64 az) 0x4059000000000000
    let azr := div64 (mul64 azdeg 0x400921FB54442D18) 0x4066800000000000
    let e := romRead hw (ch.extractLsb' 0 4)
    let xy := mul64 d e.cos
    project T hw ⟨ch, az, dist⟩ =
      if dist = 0 then { point := false, x := 0, y := 0, z := 0 }
      else
        { point := true
          x := narrow32 (mul64 xy (T.sin64 azr))
          y := narrow32 (mul64 xy (T.cos64 azr))
          z := narrow32 (mul64 d e.sin) }) ∧
  ∀ latency : Nat, respondTo (buildHardware trigCR Config.vangle latency) ⟨0, 0, 5000⟩ =
    { point := true, x := 0x00000000, y := 0x411A8C52, z := 0xC025A4EA }

/-- R81: a zero distance gives "no point", with three zero words, for every channel and every azimuth. -/
def Obligations.ZeroDistanceIsNoPoint : Prop :=
  ∀ (T : Trig) (hw : Hardware) (ch : BitVec 5) (az : BitVec 16),
    project T hw ⟨ch, az, 0⟩ = { point := false, x := 0x00000000, y := 0x00000000, z := 0x00000000 }

/-- R97: PROJECT drops a return only for a zero distance. -/
def Obligations.OnlyZeroDistanceIsDropped : Prop :=
  ∀ (T : Trig) (hw : Hardware) (r : Request), (project T hw r).point = false ↔ r.dist.toNat = 0

/-- Channels `ch` and `ch + 16` give bit-identical responses (R92): bit `ch[4]` affects nothing. -/
def Obligations.FiringGroupAffectsNothing : Prop :=
  ∀ (T : Trig) (hw : Hardware) (ch : BitVec 5) (az dist : BitVec 16), ch.toNat < 16 →
    project T hw ⟨ch, az, dist⟩ = project T hw ⟨ch + 16, az, dist⟩

/-- R94: z is bit-exactly `narrow32(mul64(mul64(toF64(dist_raw), C_SCALE), VROM[k].sin))`. -/
def Obligations.ZIsBitExact : Prop :=
  ∀ (T : Trig) (hw : Hardware) (r : Request), hw.SpecConstants → r.dist ≠ 0 →
    (project T hw r).z = narrow32 (mul64 (mul64 (toF64 r.dist) constScale) (romRead hw (r.ch.extractLsb' 0 4)).sin)

/-- At azimuth 0, x is +0 and y is the narrowed horizontal range, in a block whose ROM cosines are positive and at most
1 (R96). -/
def Obligations.AzimuthZeroLiesOnY : Prop :=
  ∀ (hw : Hardware) (r : Request), hw.SpecConstants → r.az = 0 → r.dist ≠ 0 →
    Within64 (romRead hw (romIndex r.ch)).cos 1 → 0 < value64 (romRead hw (romIndex r.ch)).cos →
    (respondTo hw r).x = 0x00000000 ∧ (respondTo hw r).y = narrow32 (horizontalRange hw r.ch r.dist)

/-! ## Arithmetic -/

/-- `mul64` is the exact product rounded to nearest, ties to even, for all finite operands whose product does not exceed
the largest finite value (R10). -/
def Obligations.MulIsCorrectlyRounded : Prop :=
  ∀ a b : F64, finite64 a = true → finite64 b = true → |value64 a * value64 b| ≤ maxFinite64 →
    RoundedTo64 (mul64 a b) ((value64 a * value64 b : ℚ) : ℝ)

/-- `div64` is the exact quotient rounded to nearest, ties to even, for all finite operands with a divisor that is not
zero, where the quotient does not exceed the largest finite value (R10). -/
def Obligations.DivIsCorrectlyRounded : Prop :=
  ∀ a b : F64, finite64 a = true → finite64 b = true → value64 b ≠ 0 → |value64 a / value64 b| ≤ maxFinite64 →
    RoundedTo64 (div64 a b) ((value64 a / value64 b : ℚ) : ℝ)

/-- `toF64` is exact (R10). -/
def Obligations.ToF64IsExact : Prop :=
  ∀ n : BitVec 16, finite64 (toF64 n) = true ∧ value64 (toF64 n) = (n.toNat : ℚ) ∧ sign64 (toF64 n) = false

/-- `narrow32` is the nearest binary32 value, ties to even, for every finite value up to the largest finite binary32
one (R12). -/
def Obligations.NarrowIsCorrectlyRounded : Prop :=
  ∀ v : F64, finite64 v = true → |value64 v| ≤ maxFinite32 → RoundedTo32 (narrow32 v) ((value64 v : ℚ) : ℝ)

/-- R21: each constant is the binary64 value nearest to the real number the document writes; 100.0 and 180 are exact,
`C_SCALE` exceeds 0.002 by about 4.2e-20, and `C_PI` falls short of π by about 1.2e-16. The constants of a built block
have these bits. -/
def Obligations.ConstantsAreNearest : Prop :=
  RoundedTo64 constScale (2 / 1000) ∧ RoundedTo64 const100 100 ∧ RoundedTo64 constPi Real.pi ∧
  RoundedTo64 const180 180 ∧ value64 const100 = 100 ∧ value64 const180 = 180 ∧
  value64 constScale = 1152921504606847 / 2 ^ 59 ∧
  41 / 10 ^ 21 < value64 constScale - 2 / 1000 ∧ value64 constScale - 2 / 1000 < 42 / 10 ^ 21 ∧
  12 / 10 ^ 17 < Real.pi - ((value64 constPi : ℚ) : ℝ) ∧ Real.pi - ((value64 constPi : ℚ) : ℝ) < 13 / 10 ^ 17 ∧
  (∀ (T : Trig) (vangle : Vector F64 16) (latency : Nat),
    (buildHardware T vangle latency).cScale = 0x3F60624DD2F1A9FC ∧
    (buildHardware T vangle latency).c100 = 0x4059000000000000 ∧
    (buildHardware T vangle latency).cPi = 0x400921FB54442D18 ∧
    (buildHardware T vangle latency).c180 = 0x4066800000000000)

/-- Where the model's enclosure settles the rounding, its sine and cosine are the true ones correctly rounded (R11,
`P_TRIG = CR`). Where it does not, the model's value is free (log 2). -/
def Obligations.CertifiedTrigIsCorrectlyRounded : Prop :=
  (∀ a v : F64, certifiedSin a = some v → RoundedTo64 v (Real.sin ((value64 a : ℚ) : ℝ))) ∧
  (∀ a v : F64, certifiedCos a = some v → RoundedTo64 v (Real.cos ((value64 a : ℚ) : ℝ)))

/-- The distance in metres (R83): it grows strictly with the code, and for every non-zero code it is positive and
finite, from `C_SCALE` (0.002) to the binary64 value 131.07. -/
def Obligations.DistanceRange : Prop :=
  ∀ (hw : Hardware), hw.SpecConstants →
    (∀ m n : BitVec 16, m.toNat < n.toNat → value64 (distanceMetres hw m) < value64 (distanceMetres hw n)) ∧
    (∀ n : BitVec 16, n ≠ 0 → finite64 (distanceMetres hw n) = true ∧ exponent64 (distanceMetres hw n) ≠ 0 ∧
      value64 constScale ≤ value64 (distanceMetres hw n) ∧
      value64 (distanceMetres hw n) ≤ value64 0x4060623D70A3D70A)

/-- The azimuth (R84, R95): no code is wrapped or clamped. Degrees and radians grow strictly with the code over all
65536 codes, from +0 at code 0; a code of 36000 or more gives at least 360 degrees; the last code, 65535, gives the
binary64 values of 655.35 degrees and 11.438015252944840 radians, and no code more. -/
def Obligations.AzimuthIsNotWrapped : Prop :=
  ∀ (hw : Hardware), hw.SpecConstants →
    (∀ m n : BitVec 16, m.toNat < n.toNat →
      value64 (azimuthDegrees hw m) < value64 (azimuthDegrees hw n) ∧
      value64 (azimuthRadians hw m) < value64 (azimuthRadians hw n)) ∧
    (∀ n : BitVec 16, finite64 (azimuthDegrees hw n) = true ∧ finite64 (azimuthRadians hw n) = true ∧
      (azimuthRadians hw n = 0 ↔ n = 0) ∧
      (36000 ≤ n.toNat → 360 ≤ value64 (azimuthDegrees hw n)) ∧
      value64 (azimuthDegrees hw n) ≤ value64 0x40847ACCCCCCCCCD ∧
      value64 (azimuthRadians hw n) ≤ value64 0x4026E04389051832) ∧
    azimuthDegrees hw 65535 = 0x40847ACCCCCCCCCD ∧ azimuthRadians hw 65535 = 0x4026E04389051832

/-- No result of PROJECT overflows (R90): with the spec's constants, and sines and cosines at most 1 in magnitude in the
ROM and for the azimuth, each coordinate is finite, and none is larger than 131.0701 metres. -/
def Obligations.ResultsAreFiniteAndBounded : Prop :=
  ∀ (T : Trig) (hw : Hardware) (r : Request), hw.SpecConstants →
    Within64 (romRead hw (romIndex r.ch)).cos 1 → Within64 (romRead hw (romIndex r.ch)).sin 1 →
    Within64 (T.sin64 (azimuthRadians hw r.az)) 1 → Within64 (T.cos64 (azimuthRadians hw r.az)) 1 →
    Within32 (project T hw r).x (1310701 / 10000) ∧ Within32 (project T hw r).y (1310701 / 10000) ∧
    Within32 (project T hw r).z (1310701 / 10000)

/-- The azimuth's sine and cosine are far from zero (R85), wherever the model's enclosure settles them: the cosine is at
least 6.12e-17 in magnitude for every code, and the sine for every code but 0. -/
def Obligations.TrigStaysAwayFromZero : Prop :=
  ∀ (hw : Hardware) (az : BitVec 16) (v : F64), hw.SpecConstants →
    (certifiedCos (azimuthRadians hw az) = some v → 612 / 10 ^ 19 ≤ |value64 v|) ∧
    (az ≠ 0 → certifiedSin (azimuthRadians hw az) = some v → 612 / 10 ^ 19 ≤ |value64 v|)

/-- The bounds of R90 for the block of the default angles (log 3), wherever the model's enclosure settles sine and
cosine of the azimuth (log 2): each coordinate is +0 or a normal value, |x| and |y| in [1.18e-19, 131.0501], |z| in
[3.49e-5, 33.92342] and not zero. -/
def Obligations.DefaultBlockResultBounds : Prop :=
  ∀ (latency : Nat) (r : Request), r.dist ≠ 0 →
    (certifiedSin (azimuthRadians (buildHardware trigCR Config.vangle latency) r.az)).isSome = true →
    (certifiedCos (azimuthRadians (buildHardware trigCR Config.vangle latency) r.az)).isSome = true →
    ZeroOrNormalIn (respondTo (buildHardware trigCR Config.vangle latency) r).x (118 / 10 ^ 21) (1310501 / 10000) ∧
    ZeroOrNormalIn (respondTo (buildHardware trigCR Config.vangle latency) r).y (118 / 10 ^ 21) (1310501 / 10000) ∧
    ZeroOrNormalIn (respondTo (buildHardware trigCR Config.vangle latency) r).z (349 / 10 ^ 7) (3392342 / 100000) ∧
    (respondTo (buildHardware trigCR Config.vangle latency) r).z ≠ 0

/-- The Pythagorean property within the tolerance of R93, wherever the model's enclosure settles sine and cosine of the
azimuth (log 2), for a ROM cosine in (0.9, 1]: `|x² + y² − xy²| ≤ 1.2e-7 × xy²`. -/
def Obligations.PythagoreanWithinTolerance : Prop :=
  ∀ (hw : Hardware) (r : Request), hw.SpecConstants → r.dist ≠ 0 →
    Within64 (romRead hw (romIndex r.ch)).cos 1 → 9 / 10 < value64 (romRead hw (romIndex r.ch)).cos →
    (certifiedSin (azimuthRadians hw r.az)).isSome = true → (certifiedCos (azimuthRadians hw r.az)).isSome = true →
    |value32 (respondTo hw r).x ^ 2 + value32 (respondTo hw r).y ^ 2 - value64 (horizontalRange hw r.ch r.dist) ^ 2|
      ≤ 12 / 100000000 * value64 (horizontalRange hw r.ch r.dist) ^ 2

/-! ## The host's side -/

/-- R40: `dist_raw` of channel `i` is little-endian at block offsets `4 + 3i` and `5 + 3i`; no intensity byte, at offset
`6 + 3j`, is an input of the block. -/
def Obligations.DistanceFieldIsLittleEndian : Prop :=
  (∀ (b : DataBlock) (i : Fin 32) (b0 b1 : Byte),
    b[4 + 3 * i.val]? = some b0 → b[5 + 3 * i.val]? = some b1 →
    (distField b i).toNat = b0.toNat + 256 * b1.toNat) ∧
  ∀ (b b' : DataBlock), (∀ k, (∀ j, j < 32 → k ≠ 6 + 3 * j) → b'[k]? = b[k]?) → blockRequests b' = blockRequests b

/-- R41: `az_raw` is little-endian at block offsets 2 and 3, the same for every channel of the block. -/
def Obligations.AzimuthFieldIsLittleEndian : Prop :=
  ∀ (b : DataBlock) (a0 a1 : Byte), b[2]? = some a0 → b[3]? = some a1 →
    (azField b).toNat = a0.toNat + 256 * a1.toNat ∧ ∀ r ∈ blockRequests b, r.az = azField b

/-- A PROJECT statement with its operands in range assembles to one cycle that presents exactly
`REQ = ch × 2^32 + az_raw × 2^16 + dist_raw`; an operand outside its range is refused, never wrapped (R68). -/
def Obligations.AssembledProjectPresentsItsWord : Prop :=
  ∀ ch az dist : Nat,
    ((Stmt.project ch az dist).wf = true →
      ∃ c, assembleStmt (.project ch az dist) = .ok [c] ∧ c.accepted = true ∧
        (requestWords [c]).map (·.toNat) = [ch * 2 ^ 32 + az * 2 ^ 16 + dist]) ∧
    ((Stmt.project ch az dist).wf = false →
      ∃ v, assembleStmt (.project ch az dist) = .error (.operandOutOfRange v) ∧ (v = ch ∨ v = az ∨ v = dist))

/-- A PROJECT line is read as the statement it stands for (R68): operands in decimal, or in hexadecimal after `0x`, of
any number of digits, letters capital or small; a comment after `;`, or none; blanks before the word, after it (at least
one), about the commas and at the end, any number of them (log 16). -/
def Obligations.HexadecimalLineParses : Prop :=
  ∀ (f : LineForm) (ch az dist : Literal), f.Wf → ch.Wf → az.Wf → dist.Wf →
    parseLine (f.line projectWord [ch, az, dist]) = .ok (some (.project ch.value az.value dist.value))

/-- `PROJECT.BLOCK` takes exactly 33 operands and expands to 32 consecutive PROJECT statements, one per cycle, in
channel order (R69); with 33 operands of which one is out of range it is refused, and the refusal names such an operand,
which is neither wrapped nor truncated (R68). -/
def Obligations.BlockExpandsInChannelOrder : Prop :=
  ∀ (az : Nat) (dists : List Nat),
    (dists.length ≠ 32 → assembleStmt (.block az dists) = .error .operandCount) ∧
    ((Stmt.block az dists).wf = true →
      ∃ cs, assembleStmt (.block az dists) = .ok cs ∧ cs.length = 32 ∧
        ∀ i, i < 32 → assembleStmt (.project i az (dists.getD i 0)) = .ok [cycleAt cs i]) ∧
    (dists.length = 32 → (Stmt.block az dists).wf = false →
      ∃ v, assembleStmt (.block az dists) = .error (.operandOutOfRange v) ∧ 65536 ≤ v ∧ (v = az ∨ v ∈ dists))

/-- `IDLE n` is n cycles with `req_valid = 0`, for `n ≥ 1`, and assembles to no request word; `IDLE` with no operand
means `IDLE 1` (R70). That the word is written in capitals is the model's choice (log 16). -/
def Obligations.IdleAssemblesToNoRequest : Prop :=
  (∀ n : Nat, 1 ≤ n → ∃ cs, assembleStmt (.idle n) = .ok cs ∧ cs.length = n ∧
    (∀ c ∈ cs, c.reqValid = false) ∧ requestWords cs = []) ∧
  parseLine ['I', 'D', 'L', 'E'] = .ok (some (.idle 1))

/-! ## The response word, power-up and program texts -/

/-- `RSP = {rsp_point, rsp_x, rsp_y, rsp_z}`: `point` at bit 96, `x` at 95:64, `y` at 63:32, `z` at 31:0 (R63). -/
def Obligations.ResponseWordIsPackedFields : Prop :=
  ∀ r : Response,
    (responseWord r).toNat = r.point.toNat * 2 ^ 96 + r.x.toNat * 2 ^ 64 + r.y.toNat * 2 ^ 32 + r.z.toNat ∧
    (responseWord r).getLsbD 96 = r.point ∧
    (responseWord r).extractLsb' 64 32 = r.x ∧
    (responseWord r).extractLsb' 32 32 = r.y ∧
    (responseWord r).extractLsb' 0 32 = r.z

/-- Until the first reset edge `rsp_valid`, the response data and every stage hold any value (R136): after any number of
edges without reset from a state that no reset edge has preceded, in a block with registers, they hold the free values
of that cycle (log 13), whatever the registers held before and whatever the host has presented. -/
def Obligations.RegistersHoldAnyValueUntilReset : Prop :=
  ∀ (n : Nat) (s : State), s.wasReset = false → 1 ≤ s.hw.latency → noReset (n + 1) s.host →
    ∃ t, ReachesIn (n + 1) s t ∧ t.wasReset = false ∧ t.hw = s.hw ∧
      t.stages = powerUpStages s.hw.latency (s.edges + n + 1) ∧
      t.rspValid = Config.powerUpRspValid (s.edges + n + 1) ∧
      t.registers = powerUpResponse (s.edges + n + 1)

/-- The lines of the pseudo-statements are read as what they stand for: `PROJECT.BLOCK` with an azimuth and any number
of distances (R69), `IDLE` with a count and `IDLE` alone (R70), in decimal or hexadecimal and with a comment or none
(R68); a line of blanks, with a comment or none, holds no statement (R68). The layout is the model's choice (log 16). -/
def Obligations.BlockAndIdleLinesParse : Prop :=
  ∀ f : LineForm, f.Wf →
    (∀ (az : Literal) (dists : List Literal), az.Wf → (∀ d ∈ dists, d.Wf) →
      parseLine (f.line blockWord (az :: dists)) = .ok (some (.block az.value (dists.map (·.value))))) ∧
    (∀ n : Literal, n.Wf → parseLine (f.line idleWord [n]) = .ok (some (.idle n.value))) ∧
    parseLine (f.line idleWord []) = .ok (some (.idle 1)) ∧
    parseLine (f.lead ++ f.lineEnd) = .ok none

/-- A program is a sequence of lines (R68). A text whose lines are read as statements, or as nothing, assembles as the
sequence of those statements; a line that is refused refuses the text. A sequence of statements assembles to their
cycles, one statement after another; a statement that is refused refuses the sequence. That a line ends at a line feed
is the model's choice (log 16). -/
def Obligations.ProgramTextIsItsLines : Prop :=
  (∀ (lines : List (List Char)) (sts : List (Option Stmt)), (∀ l ∈ lines, '
' ∉ l) →
    List.Forall₂ (fun l st => parseLine l = .ok st) lines sts →
    assembleText (joinLines lines) = assembleProgram (sts.filterMap id)) ∧
  (∀ (lines : List (List Char)), (∀ l ∈ lines, '
' ∉ l) →
    (∃ l ∈ lines, ∃ e, parseLine l = .error e) → ∃ e, assembleText (joinLines lines) = .error e) ∧
  (∀ (sts : List Stmt) (css : List (List HostCycle)),
    List.Forall₂ (fun st cs => assembleStmt st = .ok cs) sts css → assembleProgram sts = .ok css.flatten) ∧
  (∀ sts : List Stmt, (∃ st ∈ sts, ∃ e, assembleStmt st = .error e) → ∃ e, assembleProgram sts = .error e)
end

