-- ==== Sys2Proof/Laws/Float.lean ====
section
/-! SUPPORT. The small facts of the arithmetic: the leading bit, the nearest integer, and that finite values are
fractions with a positive denominator. -/

namespace Sys2Proof.Machine

theorem leadingBitBelow_eq_log2 (k n : Nat) (h : n < 2 ^ 2 ^ k) : leadingBitBelow k n = Nat.log2 n := by
  induction k generalizing n with
  | zero =>
    have : n = 0 ∨ n = 1 := by simp at h; omega
    rcases this with rfl | rfl <;> simp [leadingBitBelow, Nat.log2_def]
  | succ k ih =>
    rw [leadingBitBelow]
    split
    · next hlt => exact ih n hlt
    · next hge =>
      have hge : 2 ^ 2 ^ k ≤ n := Nat.le_of_not_lt hge
      have hpos : 0 < 2 ^ 2 ^ k := Nat.pow_pos (by decide)
      have hq : n / 2 ^ 2 ^ k < 2 ^ 2 ^ k := by
        apply Nat.div_lt_of_lt_mul
        calc n < 2 ^ 2 ^ (k + 1) := h
          _ = 2 ^ 2 ^ k * 2 ^ 2 ^ k := by rw [← Nat.pow_add, Nat.pow_succ, Nat.mul_two]
      have hq0 : n / 2 ^ 2 ^ k ≠ 0 := by
        have := Nat.div_pos hge hpos
        omega
      have hn0 : n ≠ 0 := by omega
      rw [ih _ hq, eq_comm, Nat.log2_eq_iff hn0]
      have h1 := (Nat.log2_eq_iff hq0 (k := (n / 2 ^ 2 ^ k).log2)).mp rfl
      rw [Nat.le_div_iff_mul_le hpos, Nat.div_lt_iff_lt_mul hpos, ← Nat.pow_add, ← Nat.pow_add] at h1
      refine ⟨by rw [Nat.add_comm]; exact h1.1, ?_⟩
      have e : 2 ^ k + (n / 2 ^ 2 ^ k).log2 + 1 = (n / 2 ^ 2 ^ k).log2 + 1 + 2 ^ k := by omega
      rw [e]
      exact h1.2

/-- The halving search finds the leading bit. -/
theorem leadingBit_eq_log2 (n : Nat) : leadingBit n = Nat.log2 n := by
  unfold leadingBit
  split
  · next h => exact leadingBitBelow_eq_log2 halvings n h
  · rfl

/-- The nearest integer is within half a unit: in units of `1 / (2 d)`, at most `d` away. -/
theorem nearestInt_bounds (n d : Nat) (hd : 0 < d) :
    2 * n ≤ 2 * (nearestInt n d * d) + d ∧ 2 * (nearestInt n d * d) ≤ 2 * n + d := by
  have hm := Nat.div_add_mod n d
  have hlt := Nat.mod_lt n hd
  have hc : n / d * d = d * (n / d) := Nat.mul_comm ..
  unfold nearestInt
  split
  · omega
  · split
    · rw [Nat.add_mul, hc]; omega
    · rcases Nat.mod_two_eq_zero_or_one (n / d) with h | h
      · rw [h]; simp only [Nat.add_zero]; omega
      · rw [h, Nat.add_mul, hc]; omega

/-- A fraction that is an integer is its own nearest integer. -/
@[simp] theorem nearestInt_mul_self (q d : Nat) (hd : 0 < d) : nearestInt (q * d) d = q := by
  simp [nearestInt, hd]

theorem denominator64_pos (v : F64) : 0 < denominator64 v := Nat.pow_pos (by decide)

theorem exponent64_lt (v : F64) : exponent64 v < 2048 := (v.extractLsb' 52 11).isLt

theorem fraction64_lt (v : F64) : fraction64 v < 2 ^ 52 := (v.extractLsb' 0 52).isLt

theorem significand64_lt (v : F64) : significand64 v < 2 ^ 53 := by
  have h := fraction64_lt v
  unfold significand64
  split <;> omega

theorem seriesDenominator_pos (odd d k : Nat) (hd : 0 < d) : 0 < seriesDenominator odd d k := by
  induction k with
  | zero => exact Nat.pow_pos hd
  | succ k ih => exact Nat.mul_pos ih (Nat.mul_pos (Nat.mul_pos hd hd) (by positivity))

end Sys2Proof.Machine
end

