-- ==== Sys2Proof/Laws/State.lean ====
section
/-! SUPPORT. One lemma per field of the state and per operation that builds a state, so that no proof unfolds a record
update. -/

namespace Sys2Proof.Machine

@[simp] theorem loadResponse_hw (s : State) (d : Option Request) : (loadResponse s d).hw = s.hw := by
  cases d <;> rfl

@[simp] theorem loadResponse_stages (s : State) (d : Option Request) : (loadResponse s d).stages = s.stages := by
  cases d <;> rfl

@[simp] theorem loadResponse_host (s : State) (d : Option Request) : (loadResponse s d).host = s.host := by
  cases d <;> rfl

@[simp] theorem loadResponse_received (s : State) (d : Option Request) : (loadResponse s d).received = s.received := by
  cases d <;> rfl

@[simp] theorem loadResponse_edges (s : State) (d : Option Request) : (loadResponse s d).edges = s.edges := by
  cases d <;> rfl

@[simp] theorem loadResponse_wasReset (s : State) (d : Option Request) : (loadResponse s d).wasReset = s.wasReset := by
  cases d <;> rfl

@[simp] theorem loadResponse_rspValid (s : State) (d : Option Request) : (loadResponse s d).rspValid = d.isSome := by
  cases d <;> rfl

@[simp] theorem loadResponse_some_registers (s : State) (r : Request) :
    (loadResponse s (some r)).registers = respondTo s.hw r := rfl

@[simp] theorem loadResponse_none_registers (s : State) :
    (loadResponse s none).registers = freeResponse s.edges := rfl

@[simp] theorem hostAfter_hw (s : State) (p : Port) : (hostAfter s p).hw = s.hw := rfl

@[simp] theorem hostAfter_stages (s : State) (p : Port) : (hostAfter s p).stages = s.stages := rfl

@[simp] theorem hostAfter_rspValid (s : State) (p : Port) : (hostAfter s p).rspValid = s.rspValid := rfl

@[simp] theorem hostAfter_rspPoint (s : State) (p : Port) : (hostAfter s p).rspPoint = s.rspPoint := rfl

@[simp] theorem hostAfter_rspX (s : State) (p : Port) : (hostAfter s p).rspX = s.rspX := rfl

@[simp] theorem hostAfter_rspY (s : State) (p : Port) : (hostAfter s p).rspY = s.rspY := rfl

@[simp] theorem hostAfter_rspZ (s : State) (p : Port) : (hostAfter s p).rspZ = s.rspZ := rfl

@[simp] theorem hostAfter_wasReset (s : State) (p : Port) : (hostAfter s p).wasReset = s.wasReset := rfl

@[simp] theorem hostAfter_host (s : State) (p : Port) : (hostAfter s p).host = s.host.tail := rfl

@[simp] theorem hostAfter_received (s : State) (p : Port) : (hostAfter s p).received = receivedAfter s p := rfl

@[simp] theorem hostAfter_edges (s : State) (p : Port) : (hostAfter s p).edges = s.edges + 1 := rfl

@[simp] theorem hostAfter_registers (s : State) (p : Port) : (hostAfter s p).registers = s.registers := rfl

@[simp] theorem unsettle_hw (s : State) : (unsettle s).hw = s.hw := rfl

@[simp] theorem unsettle_wasReset (s : State) : (unsettle s).wasReset = s.wasReset := rfl

@[simp] theorem unsettle_host (s : State) : (unsettle s).host = s.host := rfl

@[simp] theorem unsettle_received (s : State) : (unsettle s).received = s.received := rfl

@[simp] theorem unsettle_edges (s : State) : (unsettle s).edges = s.edges := rfl

@[simp] theorem unsettle_stages (s : State) : (unsettle s).stages = powerUpStages s.hw.latency (s.edges + 1) := rfl

@[simp] theorem unsettle_rspValid (s : State) : (unsettle s).rspValid = Config.powerUpRspValid (s.edges + 1) := rfl

@[simp] theorem unsettle_registers (s : State) : (unsettle s).registers = powerUpResponse (s.edges + 1) := rfl

@[simp] theorem registersAfter_hw (s : State) (req : Option Request) : (registersAfter s req).hw = s.hw := by
  unfold registersAfter; split <;> simp

@[simp] theorem registersAfter_wasReset (s : State) (req : Option Request) :
    (registersAfter s req).wasReset = s.wasReset := by
  unfold registersAfter; split <;> simp

@[simp] theorem registersAfter_host (s : State) (req : Option Request) : (registersAfter s req).host = s.host := by
  unfold registersAfter; split <;> simp

@[simp] theorem registersAfter_received (s : State) (req : Option Request) :
    (registersAfter s req).received = s.received := by
  unfold registersAfter; split <;> simp

@[simp] theorem registersAfter_edges (s : State) (req : Option Request) : (registersAfter s req).edges = s.edges := by
  unfold registersAfter; split <;> simp

@[simp] theorem clockEdge_hw (s : State) (req : Option Request) : (clockEdge s req).hw = s.hw := by
  simp [clockEdge]

@[simp] theorem clockEdge_wasReset (s : State) (req : Option Request) : (clockEdge s req).wasReset = s.wasReset := by
  simp [clockEdge]

@[simp] theorem clockEdge_host (s : State) (req : Option Request) : (clockEdge s req).host = s.host.tail := by
  simp [clockEdge]

@[simp] theorem clockEdge_edges (s : State) (req : Option Request) : (clockEdge s req).edges = s.edges + 1 := by
  simp [clockEdge]

@[simp] theorem clockEdge_received (s : State) (req : Option Request) :
    (clockEdge s req).received = receivedAfter s (portWith s req) := by
  simp [clockEdge, receivedAfter, currentCycle]

/-! The registers after an edge without reset, once settled and before. -/

@[simp] theorem clockEdge_stages {s : State} (h : s.settled = true) (req : Option Request) :
    (clockEdge s req).stages = stagesAfter s req := by
  simp [clockEdge, registersAfter, h]

@[simp] theorem clockEdge_stages_of_not_settled {s : State} (h : s.settled = false) (req : Option Request) :
    (clockEdge s req).stages = powerUpStages s.hw.latency (s.edges + 1) := by
  simp [clockEdge, registersAfter, h]

@[simp] theorem clockEdge_rspValid {s : State} (h : s.settled = true) (req : Option Request) :
    (clockEdge s req).rspValid = (leaving s req).isSome := by
  simp [clockEdge, registersAfter, h]

@[simp] theorem clockEdge_rspValid_of_not_settled {s : State} (h : s.settled = false) (req : Option Request) :
    (clockEdge s req).rspValid = Config.powerUpRspValid (s.edges + 1) := by
  simp [clockEdge, registersAfter, h]

@[simp] theorem clockEdge_registers {s : State} (h : s.settled = true) (req : Option Request) :
    (clockEdge s req).registers = (loadResponse s (leaving s req)).registers := by
  simp [clockEdge, registersAfter, h, State.registers]

@[simp] theorem clockEdge_registers_of_not_settled {s : State} (h : s.settled = false) (req : Option Request) :
    (clockEdge s req).registers = powerUpResponse (s.edges + 1) := by
  simp [clockEdge, registersAfter, h]

@[simp] theorem clockEdge_settled (s : State) (req : Option Request) : (clockEdge s req).settled = s.settled := by
  simp [State.settled]

@[simp] theorem resetEdge_settled (s : State) : (resetEdge s).settled = true := rfl

@[simp] theorem resetEdge_wasReset (s : State) : (resetEdge s).wasReset = true := rfl

@[simp] theorem resetEdge_hw (s : State) : (resetEdge s).hw = s.hw := by simp [resetEdge]

@[simp] theorem resetEdge_stages (s : State) : (resetEdge s).stages = List.replicate (s.hw.latency - 1) none := rfl

@[simp] theorem resetEdge_rspValid (s : State) : (resetEdge s).rspValid = false := rfl

@[simp] theorem resetEdge_registers (s : State) : (resetEdge s).registers = (loadResponse s none).registers := rfl

@[simp] theorem resetEdge_host (s : State) : (resetEdge s).host = s.host.tail := by simp [resetEdge]

@[simp] theorem resetEdge_edges (s : State) : (resetEdge s).edges = s.edges + 1 := by simp [resetEdge]

@[simp] theorem resetEdge_received (s : State) : (resetEdge s).received = receivedAfter s (portWith s none) := by
  simp [resetEdge, receivedAfter, currentCycle]

@[simp] theorem withFetchWord_hw (s : State) (nbits w : Nat) : (s.withFetchWord nbits w).hw = s.hw := rfl

@[simp] theorem withFetchWord_stages (s : State) (nbits w : Nat) : (s.withFetchWord nbits w).stages = s.stages := rfl

@[simp] theorem withFetchWord_rspValid (s : State) (nbits w : Nat) : (s.withFetchWord nbits w).rspValid = s.rspValid := rfl

@[simp] theorem withFetchWord_rspPoint (s : State) (nbits w : Nat) : (s.withFetchWord nbits w).rspPoint = s.rspPoint := rfl

@[simp] theorem withFetchWord_rspX (s : State) (nbits w : Nat) : (s.withFetchWord nbits w).rspX = s.rspX := rfl

@[simp] theorem withFetchWord_rspY (s : State) (nbits w : Nat) : (s.withFetchWord nbits w).rspY = s.rspY := rfl

@[simp] theorem withFetchWord_rspZ (s : State) (nbits w : Nat) : (s.withFetchWord nbits w).rspZ = s.rspZ := rfl

@[simp] theorem withFetchWord_wasReset (s : State) (nbits w : Nat) : (s.withFetchWord nbits w).wasReset = s.wasReset := rfl

@[simp] theorem withFetchWord_received (s : State) (nbits w : Nat) : (s.withFetchWord nbits w).received = s.received := rfl

@[simp] theorem withFetchWord_edges (s : State) (nbits w : Nat) : (s.withFetchWord nbits w).edges = s.edges := rfl

end Sys2Proof.Machine
end

