-- ==== Sys2Proof/Laws/Ops.lean ====
section
/-! SUPPORT. What each shared operation can do, said once. -/

namespace Sys2Proof.Machine

/-! The pins and the fetch. -/

@[simp] theorem requestOf_decode_word (c : HostCycle) : requestOf (decode c.word) = c.request := by
  rcases c with ⟨rst, v, ch, az, dist, t⟩
  simp only [requestOf, decode, HostCycle.word, HostCycle.request, wordCh, wordAz, wordDist, Request.mk.injEq]
  refine ⟨?_, ?_, ?_⟩ <;> ext i hi <;> simp <;> grind

/-- The fetch answers with the request on the pins exactly where the block accepts it. -/
theorem fetch_eq (s : State) :
    fetch s = (currentCycle s).acceptedRequest.map fun r => Instr.project r.ch r.az r.dist := by
  have h := requestOf_decode_word (currentCycle s)
  simp only [fetch, HostCycle.acceptedRequest]
  split
  · cases hd : decode (currentCycle s).word with
    | project ch az dist => rw [hd] at h; simp [← h, requestOf]
  · rfl

/-- An idle cycle and a reset edge accept nothing. -/
theorem acceptedRequest_eq_none {c : HostCycle} (h : c.accepted = false) : c.acceptedRequest = none := by
  simp [HostCycle.acceptedRequest, h]

/-! One step. -/

/-- Everything a step can do: a reset edge, or an edge that accepts the request on the pins or nothing. -/
theorem step_eq (s : State) :
    step s = .next (if (currentCycle s).rst then resetEdge s else clockEdge s (currentCycle s).acceptedRequest) := by
  simp only [step, fetch_eq]
  rcases ha : (currentCycle s).acceptedRequest with _ | r
  · simp only [Option.map_none, quietEdge]
  · have hr : (currentCycle s).rst = false := by
      by_contra h
      simp [HostCycle.acceptedRequest, HostCycle.accepted, h] at ha
    simp [exec, execProject, hr]

/-- One step of a run, then the rest. -/
theorem run_succ (n : Nat) (s : State) :
    Host.Core.run Sys2Proof.core (n + 1) s = Host.Core.run Sys2Proof.core n
      (if (currentCycle s).rst then resetEdge s else clockEdge s (currentCycle s).acceptedRequest) := by
  have h : Sys2Proof.core.step s = step s := rfl
  simp only [Host.Core.run, h, step_eq]
  rfl

/-! The port. -/

/-- With a latency of at least 1 the port shows the response registers (R29). -/
theorem portWith_of_pos {s : State} (h : s.hw.latency ≠ 0) (req : Option Request) :
    portWith s req = { valid := s.rspValid, response := s.registers } := by
  simp [portWith, h, State.registers]

/-- With latency 0 the port answers the request of the cycle (R135). -/
theorem portWith_of_zero {s : State} (h : s.hw.latency = 0) (r : Request) :
    portWith s (some r) = { valid := true, response := respondTo s.hw r } := by
  simp [portWith, h]

/-! What leaves the pipeline. -/

/-- Nothing is loaded where there are no response registers (R28). -/
theorem leaving_of_zero {s : State} (h : s.hw.latency = 0) (req : Option Request) : leaving s req = none := by
  simp [leaving, h]

/-- With latency 1 the request of the edge is answered at once (R28). -/
theorem leaving_of_one {s : State} (h : s.hw.latency = 1) (req : Option Request) : leaving s req = req := by
  simp [leaving, h]

/-- With a longer latency the last stage leaves (R28). -/
theorem leaving_of_two_le {s : State} (hw : s.Wf) (h : 2 ≤ s.hw.latency) (req : Option Request) :
    leaving s req = (s.stages.getLast?).join := by
  obtain ⟨hl, -⟩ := hw
  have h0 : s.hw.latency ≠ 0 := by omega
  have e : s.hw.latency - 1 = (s.hw.latency - 2) + 1 := by omega
  have e2 : s.hw.latency - 2 = s.stages.length - 1 := by omega
  simp only [leaving, h0, if_false, e, List.getElem?_cons_succ]
  rw [e2, List.getLast?_eq_getElem?]

/-- In a block with stages, the new stage 1 holds the request and the others move on (R28). -/
theorem stagesAfter_of_two_le {s : State} (hw : s.Wf) (h : 2 ≤ s.hw.latency) (req : Option Request) :
    stagesAfter s req = req :: s.stages.dropLast := by
  obtain ⟨hl, -⟩ := hw
  have e : s.hw.latency - 1 = (s.hw.latency - 2) + 1 := by omega
  have e2 : s.hw.latency - 2 = s.stages.length - 1 := by omega
  simp only [stagesAfter, e, List.take_succ_cons, e2, List.dropLast_eq_take]

/-- A block of latency 0 or 1 has no stage (R28). -/
theorem stagesAfter_of_le_one {s : State} (h : s.hw.latency ≤ 1) (req : Option Request) : stagesAfter s req = [] := by
  have e : s.hw.latency - 1 = 0 := by omega
  simp [stagesAfter, e]

/-! Before the first reset edge. -/

/-- The registers are not settled exactly in a block with registers that no reset edge has preceded (R136). -/
theorem settled_eq_false {s : State} : s.settled = false ↔ s.wasReset = false ∧ 1 ≤ s.hw.latency := by
  simp [State.settled, Nat.one_le_iff_ne_zero]

/-- A block that a reset edge has preceded is settled, whatever its latency (R136). -/
theorem settled_of_wasReset {s : State} (h : s.wasReset = true) : s.settled = true := by simp [State.settled, h]

/-- A block without registers is settled (R28). -/
theorem settled_of_zero {s : State} (h : s.hw.latency = 0) : s.settled = true := by simp [State.settled, h]

/-- The free stages are as many as the block has (R28). -/
@[simp] theorem powerUpStages_length (latency n : Nat) : (powerUpStages latency n).length = latency - 1 := by
  simp [powerUpStages]

/-! Responses. -/

/-- A zero distance is no point (R81). -/
theorem project_zero (T : Trig) (hw : Hardware) (r : Request) (h : r.dist = 0) : project T hw r = noPoint := by
  simp [project, pointFlag, h]

/-- Any other distance is a point of the three narrowed coordinates (R80, R89). -/
theorem project_of_ne_zero (T : Trig) (hw : Hardware) (r : Request) (h : r.dist ≠ 0) :
    project T hw r =
      { point := true, x := narrow32 (xCoordinate T hw r), y := narrow32 (yCoordinate T hw r),
        z := narrow32 (zCoordinate hw r) } := by
  have hp : pointFlag r.dist = true := bne_iff_ne.mpr h
  rw [project, if_pos hp]

end Sys2Proof.Machine
end

