-- ==== Sys2Proof/Laws/PerInstr.lean ====
section
/-! SUPPORT. Statements made for each instruction, as syntax. -/

namespace Sys2Proof.Laws

/-- Every instruction is well formed (`30_encoding.md` R65), and its length is known without looking at it (R66): five
bytes of the model's container. -/
def FixedLength.Statement (i : Instr) : Prop := i.wf = true ∧ (encodeBytes i).length = 5

theorem FixedLength.project (ch : BitVec 5) (az dist : BitVec 16) :
    FixedLength.Statement (.project ch az dist) := ⟨rfl, rfl⟩

end Sys2Proof.Laws
end

