-- ==== Sys2Proof/Tests/Slice0.lean ====
section
/-! SUPPORT. Tests on values the spec writes out, a refused term for every check, and for every statement with hypotheses
a state and operands that meet them. -/

namespace Sys2Proof.Tests

open Sys2Proof.Machine

/-! ## Well-formedness: one ill-formed term for each check (`30_encoding.md` R68 to R70) -/

theorem test_wf_project : (Stmt.project 31 65535 65535).wf = true := by decide
theorem test_wf_refuses_channel : (Stmt.project 32 0 1).wf = false := by decide
theorem test_wf_refuses_azimuth : (Stmt.project 0 65536 1).wf = false := by decide
theorem test_wf_refuses_distance : (Stmt.project 0 0 65536).wf = false := by decide
theorem test_wf_refuses_block_azimuth : (Stmt.block 65536 (List.replicate 32 0)).wf = false := by decide
theorem test_wf_refuses_block_count : (Stmt.block 0 (List.replicate 31 0)).wf = false := by decide
theorem test_wf_refuses_block_distance : (Stmt.block 0 (65536 :: List.replicate 31 0)).wf = false := by decide
theorem test_wf_refuses_idle_zero : (Stmt.idle 0).wf = false := by decide

/-! ## Decoding: words written out from R61, `ch` 36:32, `az_raw` 31:16, `dist_raw` 15:0
(`95_test_vectors.md` section 2.1) -/

/-- `PROJECT 19, 4500, 5000`: channel 10011, azimuth 0001000110010100, distance 0001001110001000. -/
theorem test_decode_bits : decode 0b1001100010001100101000001001110001000 = .project 19 4500 5000 := by decide

/-- `PROJECT 31, 12345, 0` is 0x1F30390000: bytes 00 00 39 30 1F, the first least significant. -/
theorem test_decode_bytes :
    decodeBytes [0x00, 0x00, 0x39, 0x30, 0x1F, 0xAA] = .ok (.project 31 12345 0, [0xAA]) := by decide

theorem test_decode_refuses_short : decodeBytes [0x00, 0x00, 0x39, 0x30] = .error .truncated := by decide

theorem test_decode_refuses_wide :
    decodeBytes [0x00, 0x00, 0x00, 0x00, 0x20] = .error .widerThanRequestWord := by decide

theorem test_table_word : decodeTableWord 40 0x0F1194FFFF = some (.project 15 4500 65535) := by decide

/-! ## Arithmetic (`95_test_vectors.md` section 2.3, `10_state.md` R24) -/

/-- The read-only storage of a block of latency `L`. -/
def hardware (L : Nat) : Hardware := buildHardware trigCR Config.vangle L

/-- Code 9 is the first where the product differs from the quotient by 500. -/
theorem test_distance_nine : distanceMetres (hardware 1) 9 = 0x3F926E978D4FDF3C := by decide +kernel

/-- Code 9 is the first where another operation order gives another value. -/
theorem test_azimuth_nine : azimuthRadians (hardware 1) 9 = 0x3F59BC65B68B71C3 := by decide +kernel

theorem test_rom_entry_five :
    romRead (hardware 1) 5 = { cos := 0x3FEFE0D3B41815A2, sin := 0x3FB64FD6B8C28102 } := by decide +kernel

/-- The sine just past 360 degrees (R95) and the cosine at 90 degrees, both near zero. -/
theorem test_trig_near_zero :
    sinCR 0x401921FB54442D18 = 0xBCB1A62633145C07 ∧ cosCR 0x3FF921FB54442D18 = 0x3C91A62633145C07 := by decide +kernel

/-- The last azimuth code is 655.35 degrees, 11.438015252944840 radians (`40_project.md` R84, R95). -/
theorem test_azimuth_last :
    azimuthDegrees (hardware 1) 65535 = 0x40847ACCCCCCCCCD ∧ azimuthRadians (hardware 1) 65535 = 0x4026E04389051832 := by
  decide +kernel

/-- The response word of V1: point 1, then x, y and z from the top (R63, `95_test_vectors.md` section 2.1). -/
theorem test_response_word :
    responseWord ⟨true, 0x00000000, 0x411A8C52, 0xC025A4EA⟩ = 0x100000000411A8C52C025A4EA := by decide

/-! ## Steps -/

/-- A block of latency `L` in the reset state, under a host. -/
def block (L : Nat) (host : List HostCycle) : State where
  hw := hardware L
  stages := List.replicate (L - 1) none
  rspValid := false
  rspPoint := false
  rspX := 0
  rspY := 0
  rspZ := 0
  wasReset := true
  host := host
  received := []
  edges := 0

/-- The response registers after one step, if they hold a response. -/
def stepRegisters (s : State) : Option Response :=
  match step s with
  | .next t => if t.rspValid then some t.registers else none
  | _ => none

/-- The responses the host has sampled after one step. -/
def stepReceived (s : State) : List Response :=
  match step s with
  | .next t => t.received
  | _ => []

/-- The source's worked example (E1, V1), with latency 1: the response is registered at the request's own edge. -/
theorem test_project_source_example :
    stepRegisters (block 1 [presentCycle ⟨0, 0, 5000⟩]) = some ⟨true, 0x00000000, 0x411A8C52, 0xC025A4EA⟩ := by
  decide +kernel

/-- V10, with latency 0: the largest azimuth code, sampled in the cycle of the request. -/
theorem test_project_combinational :
    stepReceived (block 0 [presentCycle ⟨0, 65535, 5000⟩]) = [⟨true, 0xC10BAAA5, 0x408456AA, 0xC025A4EA⟩] := by
  decide +kernel

/-! ## The text of a program (`30_encoding.md` R68 to R71) -/

/-- `IDLE 0x1F ;x`. -/
theorem test_parse_idle :
    parseLine ['I', 'D', 'L', 'E', ' ', '0', 'x', '1', 'F', ' ', ';', 'x'] = .ok (some (.idle 31)) := by decide +kernel

/-- `PROJECT 31,65535,0xff`, in decimal but for the last operand, without a comment. -/
theorem test_parse_decimal :
    parseLine ['P', 'R', 'O', 'J', 'E', 'C', 'T', ' ', '3', '1', ',', '6', '5', '5', '3', '5', ',', '0', 'x', 'f', 'f']
      = .ok (some (.project 31 65535 255)) := by decide +kernel

/-- `PROJECT 0, 0` lacks an operand. -/
theorem test_parse_refuses_count :
    parseLine ['P', 'R', 'O', 'J', 'E', 'C', 'T', ' ', '0', ',', ' ', '0'] = .error .operandCount := by decide +kernel

theorem test_listing :
    listResponse noPoint = ['-', '>', ' ', 'N', 'O', 'P', 'O', 'I', 'N', 'T'] := by decide +kernel

/-! ## The hypotheses of the statements can be met -/

/-- A block with a plain ROM: every cosine 1, every sine 0. -/
def plainHardware (L : Nat) : Hardware where
  cScale := constScale
  c100 := const100
  cPi := constPi
  c180 := const180
  vrom := Vector.replicate 16 { cos := 0x3FF0000000000000, sin := 0 }
  latency := L

/-- A block of latency `L` with a plain ROM in the reset state. -/
def plain (L : Nat) (host : List HostCycle) : State := { block L host with hw := plainHardware L }

/-- A request with a distance of 10 m straight ahead. -/
def someRequest : Request := { ch := 0, az := 0, dist := 5000 }

/-- A cycle with `rst = 1`. -/
def resetCycle : HostCycle := { idleCycle with rst := true }

/-- A block of latency `L` that no reset edge has preceded. -/
def unreset (L : Nat) (host : List HostCycle) : State := { plain L host with wasReset := false }

/-- The premises about R136: settled by a reset edge, settled for want of registers, not settled. -/
theorem witness_settled_states :
    (plain 2 []).settled = true ∧ (unreset 0 []).settled = true ∧ (unreset 1 []).settled = false := by decide

/-- `RegistersHoldAnyValueUntilReset`, and the last clause of `ProjectCompletes`: a request, then an idle cycle. -/
theorem witness_untilReset :
    (unreset 1 [presentCycle someRequest]).Wf ∧ (unreset 1 [presentCycle someRequest]).wasReset = false ∧
    1 ≤ (unreset 1 [presentCycle someRequest]).hw.latency ∧ noReset (1 + 1) [presentCycle someRequest] := by decide

theorem witness_wf_latencies : (plain 0 []).Wf ∧ (plain 1 []).Wf ∧ (plain 2 []).Wf ∧ (plain 3 []).Wf := by decide

/-- `ProjectCompletes`, its last clause: a full last stage. -/
theorem witness_projectCompletes_last_stage :
    ({ plain 2 [] with stages := [some someRequest] } : State).Wf ∧
    ({ plain 2 [] with stages := [some someRequest] } : State).stages.getLast? = some (some someRequest) := by decide

/-- `StepRunsAcceptedRequest`: both clauses. -/
theorem witness_stepRuns :
    ((currentCycle (plain 1 [presentCycle someRequest])).reqValid = true ∧
      (currentCycle (plain 1 [presentCycle someRequest])).rst = false) ∧
    ¬((currentCycle (plain 1 [])).reqValid = true ∧ (currentCycle (plain 1 [])).rst = false) := by decide

/-- `IdlePinsAreIgnored`: two idle cycles with different pins. -/
theorem witness_idlePins :
    idleCycle.reqValid = false ∧ ({ idleCycle with reqCh := 7, reqDist := 9 } : HostCycle).reqValid = false ∧
    idleCycle.rst = ({ idleCycle with reqCh := 7, reqDist := 9 } : HostCycle).rst ∧
    idleCycle.takes = ({ idleCycle with reqCh := 7, reqDist := 9 } : HostCycle).takes := by decide

/-- `ResetEdgeReachesResetState` (latency 0 too) and `PowerUpThenReset`. -/
theorem witness_resetEdge :
    (currentCycle (plain 0 [resetCycle])).rst = true ∧ (currentCycle (plain 2 [resetCycle])).rst = true ∧
    (plain 0 [resetCycle]).hw.latency = 0 ∧ (cycleAt [resetCycle] 0).rst = true ∧
    (cycleAt [presentCycle someRequest, resetCycle] 1).rst = true := by decide

/-- `StepKeepsWellFormed` and `RomSurvivesEveryRun`: a step that is taken. -/
theorem witness_step :
    (plain 2 [resetCycle]).Wf ∧ step (plain 2 [resetCycle]) = .next (resetEdge (plain 2 [resetCycle])) ∧
    ReachesIn 1 (plain 2 [resetCycle]) (resetEdge (plain 2 [resetCycle])) := ⟨by decide, rfl, rfl⟩

/-- `ResponsePresentedAfterLatency`, with a request and without, for latencies 0 and 2. -/
theorem witness_responsePresented :
    (plain 0 [presentCycle someRequest]).Wf ∧ (plain 2 [presentCycle someRequest, idleCycle]).Wf ∧
    (plain 0 [presentCycle someRequest]).settled = true ∧ (plain 2 [presentCycle someRequest, idleCycle]).settled = true ∧
    (∀ i, 1 ≤ i → i < 2 → (cycleAt [presentCycle someRequest, idleCycle] i).rst = false) ∧
    (currentCycle (plain 2 [presentCycle someRequest])).reqValid = true := by
  refine ⟨by decide, by decide, by decide, by decide, fun i h1 h2 => ?_, by decide⟩
  have : i = 1 := by omega
  subst this; rfl

/-- `RegisteredOutputsIgnorePins`: the least latency. -/
theorem witness_registeredOutputs : 1 ≤ (plain 1 []).hw.latency := by decide

/-- `RequestOccupiesStage`: the last stage of a block of latency 3. -/
theorem witness_requestOccupiesStage :
    (plain 3 [presentCycle someRequest]).Wf ∧ (plain 3 [presentCycle someRequest]).settled = true ∧ 1 ≤ 2 ∧ 2 < (plain 3 [presentCycle someRequest]).hw.latency ∧
    (currentCycle (plain 3 [presentCycle someRequest])).accepted = true ∧
    (∀ i, 1 ≤ i → i < 2 → (cycleAt [presentCycle someRequest] i).rst = false) := by
  refine ⟨by decide, by decide, by decide, by decide, by decide, fun i h1 h2 => ?_⟩
  have : i = 1 := by omega
  subst this; rfl

/-- `ResetDropsRequest` and `DroppedRequestLeavesNoTrace`: a reset at the only edge that drops, latency 2. -/
theorem witness_resetDrops :
    (plain 2 [presentCycle someRequest, resetCycle]).Wf ∧ 1 < (plain 2 []).hw.latency ∧
    (cycleAt [presentCycle someRequest, resetCycle] 1).rst = true ∧ (cycleAt [resetCycle] 0).rst = true ∧
    (presentCycle someRequest).rst = false ∧ idleCycle.rst = false ∧
    (presentCycle someRequest).takes = idleCycle.takes := by decide

/-- `BlockDrains`: a full stage and a silent host. -/
theorem witness_blockDrains :
    ({ plain 2 [] with stages := [some someRequest] } : State).Wf ∧
    ({ plain 2 [] with stages := [some someRequest] } : State).settled = true ∧ acceptedIn 2 [idleCycle, resetCycle] = [] := by decide

/-- `ResponsesInOrderOfAcceptance`, `RunIsProjectMappedOverRequests`: two requests in a row. -/
theorem witness_order :
    (plain 3 [presentCycle someRequest, presentCycle ⟨31, 9, 1⟩]).Wf ∧
    (plain 3 [presentCycle someRequest, presentCycle ⟨31, 9, 1⟩]).settled = true ∧
    (plain 3 [presentCycle someRequest, presentCycle ⟨31, 9, 1⟩]).Quiescent ∧
    noReset 2 [presentCycle someRequest, presentCycle ⟨31, 9, 1⟩] ∧
    allTaken 2 [presentCycle someRequest, presentCycle ⟨31, 9, 1⟩] := by decide

/-- `AfterResetOnlyNewResponses`, its last clause too: nothing accepted so far. -/
theorem witness_afterReset :
    (plain 2 [resetCycle, presentCycle someRequest]).Wf ∧
    (currentCycle (plain 2 [resetCycle, presentCycle someRequest])).rst = true ∧
    step (plain 2 [resetCycle, presentCycle someRequest]) =
      .next (resetEdge (plain 2 [resetCycle, presentCycle someRequest])) ∧
    noReset 2 [presentCycle someRequest] ∧ allTaken 1 [presentCycle someRequest] ∧
    acceptedIn (1 + 1 - 2) [presentCycle someRequest] = [] := ⟨by decide, by decide, rfl, by decide, by decide, by decide⟩

/-- A data block: azimuth 9000, channel 0 distance 5000, channel 1 distance 500 (`95_test_vectors.md` section 2.2). -/
def dataBlock : DataBlock :=
  ⟨(([0xFF, 0xEE, 0x28, 0x23, 0x88, 0x13, 0x7F, 0xF4, 0x01, 0x00] : List Byte) ++ List.replicate 90 0).toArray, by simp⟩

theorem test_dataBlock_fields :
    azField dataBlock = 9000 ∧ distField dataBlock 0 = 5000 ∧ distField dataBlock 1 = 500 := by decide

/-- `DataBlockGivesResponsesInChannelOrder`. -/
theorem witness_dataBlock :
    (plain 2 (blockProgram dataBlock)).Wf ∧ (plain 2 (blockProgram dataBlock)).settled = true ∧
    (plain 2 (blockProgram dataBlock)).Quiescent ∧
    (plain 2 (blockProgram dataBlock)).host = blockProgram dataBlock := ⟨by decide, by decide, by decide, rfl⟩

/-- `DistanceFieldIsLittleEndian` at the first and last channel, `AzimuthFieldIsLittleEndian`. -/
theorem witness_fields :
    dataBlock[4 + 3 * (0 : Fin 32).val]? = some 0x88 ∧ dataBlock[5 + 3 * (0 : Fin 32).val]? = some 0x13 ∧
    dataBlock[4 + 3 * (31 : Fin 32).val]? = some 0 ∧ dataBlock[5 + 3 * (31 : Fin 32).val]? = some 0 ∧
    dataBlock[2]? = some 0x28 ∧ dataBlock[3]? = some 0x23 := by decide

/-- `DistanceFieldIsLittleEndian`, its second clause: a block with another intensity byte for channel 31. -/
theorem witness_intensity :
    ∀ k, (∀ j, j < 32 → k ≠ 6 + 3 * j) → (dataBlock.set 99 7)[k]? = dataBlock[k]? := by
  intro k h
  have hk : 99 ≠ k := fun e => h 31 (by decide) e.symm
  simp [hk]

/-- `UnsampledResponseIsLost`, its last clause: a response on the port. -/
theorem witness_unsampled :
    ({ plain 1 [] with rspValid := true, host := [idleCycle] } : State).port.valid = true := by decide

/-- `ResponseDependsOnRequestAlone`: latencies 0 and 1, channels 0 and 16; latency 1 leaves no edge for a reset. -/
theorem witness_requestAlone :
    (plain 0 [presentCycle someRequest]).Wf ∧ (plain 1 [presentCycle ⟨16, 0, 5000⟩]).Wf ∧
    (plain 0 [presentCycle someRequest]).settled = true ∧ (plain 1 [presentCycle ⟨16, 0, 5000⟩]).settled = true ∧
    (plain 1 [presentCycle ⟨16, 0, 5000⟩]).hw =
      { (plain 0 [presentCycle someRequest]).hw with latency := (plain 1 [presentCycle ⟨16, 0, 5000⟩]).hw.latency } ∧
    (currentCycle (plain 0 [presentCycle someRequest])).accepted = true ∧
    (currentCycle (plain 1 [presentCycle ⟨16, 0, 5000⟩])).accepted = true ∧
    (∀ i, 1 ≤ i → i < 1 → (cycleAt (plain 1 [presentCycle ⟨16, 0, 5000⟩]).host i).rst = false) ∧
    romIndex (currentCycle (plain 0 [presentCycle someRequest])).reqCh =
      romIndex (currentCycle (plain 1 [presentCycle ⟨16, 0, 5000⟩])).reqCh ∧
    (currentCycle (plain 0 [presentCycle someRequest])).reqAz =
      (currentCycle (plain 1 [presentCycle ⟨16, 0, 5000⟩])).reqAz ∧
    (currentCycle (plain 0 [presentCycle someRequest])).reqDist =
      (currentCycle (plain 1 [presentCycle ⟨16, 0, 5000⟩])).reqDist ∧
    ReachesIn 0 (plain 0 [presentCycle someRequest]) (plain 0 [presentCycle someRequest]) ∧
    ReachesIn 1 (plain 1 [presentCycle ⟨16, 0, 5000⟩])
      (clockEdge (plain 1 [presentCycle ⟨16, 0, 5000⟩]) (some ⟨16, 0, 5000⟩)) :=
  ⟨by decide, by decide, by decide, by decide, rfl, by decide, by decide, fun i h1 h2 => absurd h2 (by omega), by decide, by decide, by decide,
    rfl, rfl⟩

/-- `AzimuthZeroLiesOnY` and `ZIsBitExact`. -/
theorem witness_azimuthZero :
    (plainHardware 1).SpecConstants ∧ someRequest.dist ≠ 0 ∧ someRequest.az = 0 ∧
    Within64 (romRead (plainHardware 1) (romIndex someRequest.ch)).cos 1 ∧
    0 < value64 (romRead (plainHardware 1) (romIndex someRequest.ch)).cos := by decide +kernel

/-- `FiringGroupAffectsNothing` at its last channel, `DistanceRange` and `AzimuthIsNotWrapped` at two codes. -/
theorem witness_codes :
    (15 : BitVec 5).toNat < 16 ∧ (0 : BitVec 16).toNat < (65535 : BitVec 16).toNat ∧
    36000 ≤ (36000 : BitVec 16).toNat ∧ (1 : BitVec 16) ≠ 0 := by decide

/-- `MulIsCorrectlyRounded` and `DivIsCorrectlyRounded`, at the largest finite value and 1. -/
theorem witness_mul_div :
    finite64 0x7FEFFFFFFFFFFFFF = true ∧ finite64 0x3FF0000000000000 = true ∧
    value64 0x3FF0000000000000 ≠ 0 ∧
    |value64 0x7FEFFFFFFFFFFFFF * value64 0x3FF0000000000000| ≤ maxFinite64 ∧
    |value64 0x7FEFFFFFFFFFFFFF / value64 0x3FF0000000000000| ≤ maxFinite64 := by decide +kernel

/-- `NarrowIsCorrectlyRounded`. -/
theorem witness_narrow : finite64 0x3FF0000000000001 = true ∧ |value64 0x3FF0000000000001| ≤ maxFinite32 := by
  decide +kernel

/-- `CertifiedTrigIsCorrectlyRounded`. -/
theorem witness_certified :
    certifiedSin 0x3FE921FB54442D18 = some 0x3FE6A09E667F3BCC ∧ certifiedCos 0 = some 0x3FF0000000000000 := by
  decide +kernel

/-- A `P_TRIG` with values at most 1. -/
def unitTrig : Trig where
  sin64 := fun _ => 0x3FF0000000000000
  cos64 := fun _ => 0xBFF0000000000000

/-- `ResultsAreFiniteAndBounded`. -/
theorem witness_resultsBounded :
    (plainHardware 1).SpecConstants ∧
    Within64 (romRead (plainHardware 1) (romIndex someRequest.ch)).cos 1 ∧
    Within64 (romRead (plainHardware 1) (romIndex someRequest.ch)).sin 1 ∧
    Within64 (unitTrig.sin64 (azimuthRadians (plainHardware 1) someRequest.az)) 1 ∧
    Within64 (unitTrig.cos64 (azimuthRadians (plainHardware 1) someRequest.az)) 1 := by
  have h : Within64 0x3FF0000000000000 1 ∧ Within64 0xBFF0000000000000 1 := by decide +kernel
  exact ⟨by decide, by decide +kernel, by decide +kernel, h.1, h.2⟩

/-- The request of the next two: channel 0, 90 degrees, where the cosine is least, the largest distance. -/
def quarterTurn : Request := { ch := 0, az := 9000, dist := 65535 }

/-- `DefaultBlockResultBounds`. -/
theorem witness_defaultBounds :
    quarterTurn.dist ≠ 0 ∧
    (certifiedSin (azimuthRadians (buildHardware trigCR Config.vangle 1) quarterTurn.az)).isSome = true ∧
    (certifiedCos (azimuthRadians (buildHardware trigCR Config.vangle 1) quarterTurn.az)).isSome = true := by
  decide +kernel

/-- `TrigStaysAwayFromZero` and `PythagoreanWithinTolerance`. -/
theorem witness_settled :
    (plainHardware 1).SpecConstants ∧ quarterTurn.dist ≠ 0 ∧ quarterTurn.az ≠ 0 ∧
    Within64 (romRead (plainHardware 1) (romIndex quarterTurn.ch)).cos 1 ∧
    9 / 10 < value64 (romRead (plainHardware 1) (romIndex quarterTurn.ch)).cos ∧
    certifiedCos (azimuthRadians (plainHardware 1) quarterTurn.az) = some 0x3C91A62633145C07 ∧
    certifiedSin (azimuthRadians (plainHardware 1) quarterTurn.az) = some 0x3FF0000000000000 := by decide +kernel

/-- The assembler's statements at the ends of their ranges: accepted, refused, a block accepted, refused for its count
and for an operand, an idle count. -/
theorem witness_assembler :
    (Stmt.project 31 65535 65535).wf = true ∧ (Stmt.project 32 0 1).wf = false ∧
    (Stmt.block 65535 (List.replicate 32 65535)).wf = true ∧ (List.replicate 31 0).length ≠ 32 ∧
    (65536 :: List.replicate 31 0).length = 32 ∧ (Stmt.block 0 (65536 :: List.replicate 31 0)).wf = false ∧
    1 ≤ 1 := by decide

/-- The literals `0`, `65535` and `0xFf`, and what they stand for. -/
def literalZero : Literal := { hex := false, digits := [(0, false)] }
def literalDecimal : Literal := { hex := false, digits := [(6, false), (5, false), (5, false), (3, false), (5, false)] }
def literalHex : Literal := { hex := true, digits := [(15, false), (15, true)] }

/-- A line with blanks and a comment, and one with the least blanks and none. -/
def wideForm : LineForm :=
  { lead := [' '], gap := [' ', '\t'], before := [' '], after := [' '], trail := ['\r'], lineEnd := [';', ';', 'x'] }
def tightForm : LineForm := { lead := [], gap := [' '], before := [], after := [], trail := [], lineEnd := [] }

/-- `HexadecimalLineParses` and `BlockAndIdleLinesParse`: literals and both ends of a line. -/
theorem witness_lines :
    literalZero.Wf ∧ literalDecimal.Wf ∧ literalHex.Wf ∧ wideForm.Wf ∧ tightForm.Wf ∧
    (∀ d ∈ List.replicate 32 literalHex, d.Wf) :=
  ⟨by decide, by decide, by decide,
    ⟨by decide, by decide, by decide, by decide, by decide, by decide, .inr ⟨[';', 'x'], rfl⟩⟩,
    ⟨by decide, by decide, by decide, by decide, by decide, by decide, .inl rfl⟩, by decide⟩

/-- The texts and values of these literals. -/
theorem test_literals :
    literalDecimal.text = ['6', '5', '5', '3', '5'] ∧ literalDecimal.value = 65535 ∧
    literalHex.text = ['0', 'x', 'F', 'f'] ∧ literalHex.value = 255 := by decide

/-- `ProgramTextIsItsLines`: lines that are read, a line that is refused, statements that assemble, and one that is
refused. -/
theorem witness_programText :
    (∀ l ∈ [idleWord, []], '\n' ∉ l) ∧
    List.Forall₂ (fun l st => parseLine l = .ok st) [idleWord, []] [some (.idle 1), none] ∧
    parseLine projectWord = .error .operandCount ∧ '\n' ∉ projectWord ∧
    List.Forall₂ (fun st cs => assembleStmt st = .ok cs) [.idle 1] [[idleCycle]] ∧
    assembleStmt (.idle 0) = .error .idleZero :=
  ⟨by decide, .cons (by decide +kernel) (.cons (by decide +kernel) .nil), by decide +kernel, by decide,
    .cons rfl .nil, rfl⟩

end Sys2Proof.Tests
end

section
/-! PROOF. Rounding a magnitude, for every format (`00_scope.md` R10, R12). A format is given by its `f` fraction bits
(`f + 1` significant bits) and its smallest unit `2^-u`; a magnitude's bits stand for a whole number of these units. -/

namespace Sys2Proof.Machine

/-! ## The nearest integer -/

theorem nearestInt_le {n d k : Nat} (hd : 0 < d) (h : n ≤ k * d) : nearestInt n d ≤ k := by
  have hup := (nearestInt_bounds n d hd).2
  have : 2 * (nearestInt n d * d) < 2 * ((k + 1) * d) := by rw [Nat.add_mul]; omega
  have : nearestInt n d < k + 1 := Nat.lt_of_mul_lt_mul_right (by omega : nearestInt n d * d < (k + 1) * d)
  omega

theorem le_nearestInt {n d k : Nat} (hd : 0 < d) (h : k * d ≤ n) : k ≤ nearestInt n d := by
  have hlow := (nearestInt_bounds n d hd).1
  have : 2 * (k * d) < 2 * ((nearestInt n d + 1) * d) := by rw [Nat.add_mul]; omega
  have : k < nearestInt n d + 1 := Nat.lt_of_mul_lt_mul_right (by omega : k * d < (nearestInt n d + 1) * d)
  omega

/-- At half a unit from `n / d`, the nearest integer is the even one (R10). -/
theorem nearestInt_even_of_tie {n d : Nat} (hd : 0 < d)
    (h : 2 * n = 2 * (nearestInt n d * d) + d ∨ 2 * (nearestInt n d * d) = 2 * n + d) :
    nearestInt n d % 2 = 0 := by
  have hm := Nat.div_add_mod n d
  have hlt := Nat.mod_lt n hd
  have hc : n / d * d = d * (n / d) := Nat.mul_comm ..
  unfold nearestInt at h ⊢
  split at h
  · omega
  · split at h
    · rw [Nat.add_mul, hc] at h; omega
    · next hge hle => rw [if_neg hge, if_neg hle]; omega

/-- No integer is nearer to `n / d`, and where another is equally near, the nearest one is even. -/
theorem nearestInt_nearest {n d : Nat} (hd : 0 < d) (k : ℤ) :
    |(nearestInt n d : ℝ) - n / d| ≤ |(k : ℝ) - n / d| ∧
    ((k : ℝ) ≠ nearestInt n d → |(nearestInt n d : ℝ) - n / d| = |(k : ℝ) - n / d| → nearestInt n d % 2 = 0) := by
  have hd' : (0 : ℝ) < d := by exact_mod_cast hd
  obtain ⟨hlow, hup⟩ := nearestInt_bounds n d hd
  have htie := nearestInt_even_of_tie (n := n) hd
  generalize nearestInt n d = q at *
  have hhalf : |(q : ℝ) - n / d| ≤ 1 / 2 := by
    have hlow' : (2 * n : ℝ) ≤ 2 * (q * d) + d := by exact_mod_cast hlow
    have hup' : (2 * (q * d) : ℝ) ≤ 2 * n + d := by exact_mod_cast hup
    have hx : (n : ℝ) / d * d = n := div_mul_cancel₀ _ hd'.ne'
    rw [abs_le]
    constructor <;> nlinarith
  by_cases hk : k = q
  · subst hk; simp
  have hfar : 1 / 2 ≤ |(k : ℝ) - n / d| := by
    have hone : (1 : ℝ) ≤ |(k : ℝ) - q| := by exact_mod_cast Int.one_le_abs (sub_ne_zero.mpr hk)
    have := abs_sub_le (k : ℝ) (n / d) q
    rw [abs_sub_comm (n / d : ℝ) q] at this
    linarith
  refine ⟨hhalf.trans hfar, fun _ heq => htie ?_⟩
  have hx : (n : ℝ) / d * d = n := div_mul_cancel₀ _ hd'.ne'
  rcases abs_choice ((q : ℝ) - n / d) with hs | hs
  · right
    have : (2 * (q * d) : ℝ) = 2 * n + d := by nlinarith
    exact_mod_cast this
  · left
    have : (2 * n : ℝ) = 2 * (q * d) + d := by nlinarith
    exact_mod_cast this

/-! ## The units of a magnitude -/

/-- The magnitude, in smallest units, that the bits `m` stand for: exponent `m / 2^f`, fraction `m % 2^f` (R9). -/
def magnitudeUnits (f m : Nat) : Nat :=
  (if m / 2 ^ f = 0 then m % 2 ^ f else 2 ^ f + m % 2 ^ f) * 2 ^ (m / 2 ^ f - 1)

theorem magnitudeUnits_of_lt {f m : Nat} (h : m < 2 ^ f) : magnitudeUnits f m = m := by
  simp [magnitudeUnits, Nat.div_eq_of_lt h, Nat.mod_eq_of_lt h]

theorem magnitudeUnits_normal {f r : Nat} (e : Nat) (h : r < 2 ^ f) :
    magnitudeUnits f ((e + 1) * 2 ^ f + r) = (2 ^ f + r) * 2 ^ e := by
  have hdiv : ((e + 1) * 2 ^ f + r) / 2 ^ f = e + 1 := by
    rw [Nat.mul_comm, Nat.mul_add_div (Nat.two_pow_pos f), Nat.div_eq_of_lt h, Nat.add_zero]
  have hmod : ((e + 1) * 2 ^ f + r) % 2 ^ f = r := by
    rw [Nat.mul_comm, Nat.mul_add_mod, Nat.mod_eq_of_lt h]
  simp [magnitudeUnits, hdiv, hmod]

/-- A significand `q` at shift `e` stands for `q · 2^e`; also where it has grown to `2^(f+1)` and carries. -/
theorem magnitudeUnits_shift {f e q : Nat} (hlow : e = 0 ∨ 2 ^ f ≤ q) (hup : q ≤ 2 ^ (f + 1)) :
    magnitudeUnits f (e * 2 ^ f + q) = q * 2 ^ e := by
  have htwo : 2 ^ (f + 1) = 2 ^ f + 2 ^ f := by rw [Nat.pow_succ, Nat.mul_two]
  by_cases hq : q < 2 ^ f
  · obtain rfl : e = 0 := by omega
    simp [magnitudeUnits_of_lt hq]
  obtain ⟨r, rfl⟩ := Nat.exists_eq_add_of_le (Nat.le_of_not_lt hq)
  rcases Nat.lt_or_ge r (2 ^ f) with hr | hr
  · rw [← magnitudeUnits_normal e hr]
    congr 1; ring
  · obtain rfl : r = 2 ^ f := by omega
    have := magnitudeUnits_normal (f := f) (r := 0) (e + 1) (Nat.two_pow_pos f)
    rw [show e * 2 ^ f + (2 ^ f + 2 ^ f) = (e + 1 + 1) * 2 ^ f + 0 by ring, this]
    ring

/-- Every magnitude of the format is a multiple of `2^e`, or below the normal range of that shift. -/
theorem magnitudeUnits_dvd_or_lt (f m e : Nat) :
    2 ^ e ∣ magnitudeUnits f m ∨ e ≠ 0 ∧ magnitudeUnits f m < 2 ^ f * 2 ^ e := by
  rcases Nat.lt_or_ge (m / 2 ^ f - 1) e with he | he
  · right
    have hfrac : m % 2 ^ f < 2 ^ f := Nat.mod_lt _ (Nat.two_pow_pos f)
    have hsig : (if m / 2 ^ f = 0 then m % 2 ^ f else 2 ^ f + m % 2 ^ f) < 2 ^ f * 2 := by split <;> omega
    refine ⟨by omega, ?_⟩
    calc magnitudeUnits f m
        < 2 ^ f * 2 * 2 ^ (m / 2 ^ f - 1) := Nat.mul_lt_mul_of_pos_right hsig (Nat.two_pow_pos _)
      _ = 2 ^ f * 2 ^ (m / 2 ^ f - 1 + 1) := by ring
      _ ≤ 2 ^ f * 2 ^ e := Nat.mul_le_mul_left _ (Nat.pow_le_pow_right (by decide) he)
  · exact .inl (Dvd.dvd.mul_left (Nat.pow_dvd_pow 2 he) _)

/-! ## The rounded magnitude -/

/-- At the rounding shift the quotient has at most `f + 1` bits. -/
theorem div_lt_of_roundingShift (f n d : Nat) : n / d < 2 ^ (f + 1) * 2 ^ roundingShift (f + 1) n d := by
  rw [← Nat.pow_add, roundingShift, leadingBit_eq_log2]
  exact Nat.lt_of_lt_of_le Nat.lt_log2_self (Nat.pow_le_pow_right (by decide) (by omega))

/-- At a rounding shift that is not zero the quotient has all `f + 1` bits. -/
theorem le_div_of_roundingShift {f n d : Nat} (h : roundingShift (f + 1) n d ≠ 0) :
    2 ^ f * 2 ^ roundingShift (f + 1) n d ≤ n / d := by
  rw [roundingShift, leadingBit_eq_log2] at h ⊢
  have hlog : f + ((n / d).log2 + 1 - (f + 1)) = (n / d).log2 := by omega
  have hne : n / d ≠ 0 := by rintro h0; simp [h0] at h
  rw [← Nat.pow_add, hlog]
  exact Nat.log2_self_le hne

theorem roundingShift_le {f n d e : Nat} (h : n / d < 2 ^ (f + 1) * 2 ^ e) : roundingShift (f + 1) n d ≤ e := by
  by_contra hlt
  have hle := le_div_of_roundingShift (f := f) (n := n) (d := d) (by omega)
  have hpow : 2 ^ (e + 1) ≤ 2 ^ roundingShift (f + 1) n d := Nat.pow_le_pow_right (by decide) (by omega)
  have : 2 ^ f * 2 ^ (e + 1) ≤ n / d := (Nat.mul_le_mul_left _ hpow).trans hle
  rw [show 2 ^ f * 2 ^ (e + 1) = 2 ^ (f + 1) * 2 ^ e by ring] at this
  omega

/-- The significand that rounding chooses for `n / d` in smallest units `2^-u`. -/
def roundedSignificand (f u n d : Nat) : Nat :=
  nearestInt (n * 2 ^ u) (d * 2 ^ roundingShift (f + 1) (n * 2 ^ u) d)

theorem roundMagnitude_eq (f u n d : Nat) :
    roundMagnitude (f + 1) u n d =
      roundingShift (f + 1) (n * 2 ^ u) d * 2 ^ f + roundedSignificand f u n d := rfl

theorem roundedSignificand_le {f u n d : Nat} (hd : 0 < d) : roundedSignificand f u n d ≤ 2 ^ (f + 1) := by
  refine nearestInt_le (Nat.mul_pos hd (Nat.two_pow_pos _)) ?_
  have h := (Nat.div_lt_iff_lt_mul hd).mp (div_lt_of_roundingShift f (n * 2 ^ u) d)
  calc n * 2 ^ u ≤ 2 ^ (f + 1) * 2 ^ roundingShift (f + 1) (n * 2 ^ u) d * d := h.le
    _ = 2 ^ (f + 1) * (d * 2 ^ roundingShift (f + 1) (n * 2 ^ u) d) := by ring

theorem le_roundedSignificand {f u n d : Nat} (hd : 0 < d) (h : roundingShift (f + 1) (n * 2 ^ u) d ≠ 0) :
    2 ^ f ≤ roundedSignificand f u n d := by
  refine le_nearestInt (Nat.mul_pos hd (Nat.two_pow_pos _)) ?_
  calc 2 ^ f * (d * 2 ^ roundingShift (f + 1) (n * 2 ^ u) d)
      = 2 ^ f * 2 ^ roundingShift (f + 1) (n * 2 ^ u) d * d := by ring
    _ ≤ n * 2 ^ u := (Nat.le_div_iff_mul_le hd).mp (le_div_of_roundingShift h)

/-- What the rounded bits stand for. -/
theorem magnitudeUnits_roundMagnitude {f u n d : Nat} (hd : 0 < d) :
    magnitudeUnits f (roundMagnitude (f + 1) u n d) =
      roundedSignificand f u n d * 2 ^ roundingShift (f + 1) (n * 2 ^ u) d := by
  rw [roundMagnitude_eq]
  refine magnitudeUnits_shift ?_ (roundedSignificand_le hd)
  by_cases h : roundingShift (f + 1) (n * 2 ^ u) d = 0
  · exact .inl h
  · exact .inr (le_roundedSignificand hd h)

/-- The last fraction bit is that of the significand. -/
theorem roundMagnitude_mod_two {f : Nat} (hf : f ≠ 0) (u n d : Nat) :
    roundMagnitude (f + 1) u n d % 2 = roundedSignificand f u n d % 2 := by
  obtain ⟨g, rfl⟩ := Nat.exists_eq_succ_of_ne_zero hf
  rw [roundMagnitude_eq, Nat.succ_eq_add_one, Nat.pow_succ, ← Nat.mul_assoc, Nat.mul_add_mod_self_right]

/-- A magnitude with enough trailing zeros is kept (in smallest units). -/
theorem magnitudeUnits_roundMagnitude_exact {f u n : Nat} (h : 2 ^ roundingShift (f + 1) (n * 2 ^ u) 1 ∣ n * 2 ^ u) :
    magnitudeUnits f (roundMagnitude (f + 1) u n 1) = n * 2 ^ u := by
  rw [magnitudeUnits_roundMagnitude Nat.one_pos, roundedSignificand]
  obtain ⟨k, hk⟩ := h
  generalize roundingShift (f + 1) (n * 2 ^ u) 1 = e at *
  rw [hk, Nat.one_mul, Nat.mul_comm, Nat.mul_comm (2 ^ e) k, nearestInt_mul_self k _ (Nat.two_pow_pos e)]
  exact Nat.mul_comm ..

/-- A magnitude up to the largest one of exponent `e + 1` does not round past it. -/
theorem roundMagnitude_lt {f u n d e : Nat} (hd : 0 < d) (h : n * 2 ^ u ≤ (2 ^ (f + 1) - 1) * 2 ^ e * d) :
    roundMagnitude (f + 1) u n d < (e + 2) * 2 ^ f := by
  have hone : 1 ≤ 2 ^ (f + 1) := Nat.one_le_two_pow
  have hdiv : n * 2 ^ u / d ≤ (2 ^ (f + 1) - 1) * 2 ^ e := Nat.div_le_of_le_mul (by rwa [Nat.mul_comm d])
  have hlt : (2 ^ (f + 1) - 1) * 2 ^ e < 2 ^ (f + 1) * 2 ^ e :=
    Nat.mul_lt_mul_of_pos_right (by omega) (Nat.two_pow_pos e)
  have hshift := roundingShift_le (hdiv.trans_lt hlt)
  have hcarry : 2 ^ (f + 1) = 2 * 2 ^ f := by ring
  rw [roundMagnitude_eq]
  rcases Nat.lt_or_eq_of_le hshift with hs | hs
  · have hq := roundedSignificand_le (f := f) (u := u) (n := n) hd
    have hpos := Nat.two_pow_pos f
    have : (roundingShift (f + 1) (n * 2 ^ u) d + 3) * 2 ^ f ≤ (e + 2) * 2 ^ f := Nat.mul_le_mul_right _ (by omega)
    rw [Nat.add_mul] at this
    omega
  · have hq : roundedSignificand f u n d ≤ 2 ^ (f + 1) - 1 := by
      refine nearestInt_le (Nat.mul_pos hd (Nat.two_pow_pos _)) ?_
      rw [hs, Nat.mul_comm d, ← Nat.mul_assoc]
      exact h
    rw [hs, Nat.add_mul]
    omega

theorem abs_mul_two_pow_sub_div (s : ℝ) (n d e : ℕ) :
    |s * 2 ^ e - (n : ℝ) / d| = |s - n / (d * 2 ^ e : ℕ)| * 2 ^ e := by
  have hpow : (0 : ℝ) < 2 ^ e := by positivity
  rw [← abs_of_pos hpow, ← abs_mul, abs_of_pos hpow]
  congr 1
  push_cast
  field_simp

/-- A number whose magnitude is a multiple of `2^e` is one itself. -/
theorem exists_int_mul_two_pow_of_abs_eq {t : ℝ} {w e : Nat} (ht : |t| = w) (hdvd : 2 ^ e ∣ w) :
    ∃ k : ℤ, t = k * 2 ^ e := by
  obtain ⟨k, rfl⟩ := hdvd
  rcases eq_or_eq_neg_of_abs_eq ht with rfl | rfl
  · exact ⟨k, by push_cast; ring⟩
  · exact ⟨-k, by push_cast; ring⟩

/-- Rounding to nearest, ties to even (R10): no number `t` of smallest units whose magnitude the format has is nearer
to `n / d`, and where another is equally near, the rounded significand is even. -/
theorem roundMagnitude_nearest {f u n d m : Nat} (hd : 0 < d) {t : ℝ} (ht : |t| = magnitudeUnits f m) :
    |(magnitudeUnits f (roundMagnitude (f + 1) u n d) : ℝ) - (n * 2 ^ u : ℕ) / d| ≤ |t - (n * 2 ^ u : ℕ) / d| ∧
    (t ≠ magnitudeUnits f (roundMagnitude (f + 1) u n d) →
      |(magnitudeUnits f (roundMagnitude (f + 1) u n d) : ℝ) - (n * 2 ^ u : ℕ) / d| = |t - (n * 2 ^ u : ℕ) / d| →
      roundedSignificand f u n d % 2 = 0) := by
  rw [magnitudeUnits_roundMagnitude hd]
  have hnear := nearestInt_nearest (n := n * 2 ^ u)
    (Nat.mul_pos hd (Nat.two_pow_pos (roundingShift (f + 1) (n * 2 ^ u) d)))
  have hnormal := le_div_of_roundingShift (f := f) (n := n * 2 ^ u) (d := d)
  unfold roundedSignificand
  generalize roundingShift (f + 1) (n * 2 ^ u) d = e at *
  generalize n * 2 ^ u = N at *
  generalize nearestInt N (d * 2 ^ e) = q at *
  have hd' : (0 : ℝ) < d := by exact_mod_cast hd
  have hpow : (0 : ℝ) < 2 ^ e := by positivity
  push_cast
  rcases magnitudeUnits_dvd_or_lt f m e with hdvd | ⟨he, hlt⟩
  · obtain ⟨k, rfl⟩ := exists_int_mul_two_pow_of_abs_eq ht hdvd
    obtain ⟨hle, heven⟩ := hnear k
    rw [abs_mul_two_pow_sub_div, abs_mul_two_pow_sub_div]
    exact ⟨mul_le_mul_of_nonneg_right hle hpow.le,
      fun hne heq => heven (fun h => hne (by rw [h])) (mul_right_cancel₀ hpow.ne' heq)⟩
  · have hx : ((2 ^ f : ℕ) : ℝ) * 2 ^ e ≤ N / d := by
      rw [le_div_iff₀ hd']
      exact_mod_cast (Nat.le_div_iff_mul_le hd).mp (hnormal he)
    have ht' : t < ((2 ^ f : ℕ) : ℝ) * 2 ^ e := by
      refine (le_abs_self t).trans_lt ?_
      rw [ht]
      exact_mod_cast hlt
    have hle : |(q : ℝ) * 2 ^ e - N / d| ≤ |((2 ^ f : ℕ) : ℝ) * 2 ^ e - N / d| := by
      rw [abs_mul_two_pow_sub_div, abs_mul_two_pow_sub_div]
      exact mul_le_mul_of_nonneg_right (hnear (2 ^ f : ℕ)).1 hpow.le
    have hfar : |(q : ℝ) * 2 ^ e - N / d| < |t - N / d| := by
      refine hle.trans_lt ?_
      rw [abs_of_nonpos (by linarith), abs_of_nonpos (by linarith)]
      linarith
    exact ⟨hfar.le, fun _ heq => absurd heq hfar.ne⟩

end Sys2Proof.Machine
end

section
/-! PROOF. Both formats as patterns of `k + 1` bits (`00_scope.md` R9): the sign in bit `k`, the magnitude's bits below
it, `f` of them the fraction; `2^-u` the smallest unit. Rounding to a pattern is then one statement for both. -/

namespace Sys2Proof.Machine

section Formats

variable {k f u : Nat}

/-- `-1` for a set sign bit, else `1`. -/
def signFactor (negative : Bool) : ℚ := if negative then -1 else 1

@[simp] theorem signFactor_false : signFactor false = 1 := rfl

@[simp] theorem signFactor_true : signFactor true = -1 := rfl

theorem signFactor_bne (a b : Bool) : signFactor (a != b) = signFactor a * signFactor b := by
  cases a <;> cases b <;> simp

theorem signFactor_mul_self (b : Bool) : signFactor b * signFactor b = 1 := by
  cases b <;> simp

@[simp] theorem inv_signFactor (b : Bool) : (signFactor b)⁻¹ = signFactor b := by
  cases b <;> simp

@[simp] theorem abs_signFactor (b : Bool) : |signFactor b| = 1 := by
  cases b <;> simp

/-- The bits below the sign: exponent and fraction. -/
def magnitudeBits (v : BitVec (k + 1)) : Nat := v.toNat % 2 ^ k

/-- The value of a finite pattern. -/
def formatValue (f u : Nat) (v : BitVec (k + 1)) : ℚ :=
  signFactor (v.getLsbD k) * (magnitudeUnits f (magnitudeBits v) / (2 ^ u : ℕ))

/-- Of the patterns whose magnitude is below `infinity`, `v` is the nearest to `r`, ties to even. -/
def NearestEven (f u infinity : Nat) (v : BitVec (k + 1)) (r : ℝ) : Prop :=
  magnitudeBits v < infinity ∧
  ∀ c : BitVec (k + 1), magnitudeBits c < infinity →
    |((formatValue f u v : ℚ) : ℝ) - r| ≤ |((formatValue f u c : ℚ) : ℝ) - r| ∧
    (formatValue f u c ≠ formatValue f u v →
      |((formatValue f u v : ℚ) : ℝ) - r| = |((formatValue f u c : ℚ) : ℝ) - r| → magnitudeBits v % 2 = 0)

/-- The pattern with a sign and a magnitude's bits. -/
def ofSignMagnitude (k : Nat) (negative : Bool) (m : Nat) : BitVec (k + 1) :=
  BitVec.ofNat (k + 1) ((if negative then 2 ^ k else 0) + m)

theorem magnitudeBits_ofSignMagnitude (negative : Bool) {m : Nat} (h : m < 2 ^ k) :
    magnitudeBits (ofSignMagnitude k negative m) = m := by
  have hdvd : 2 ^ k ∣ 2 ^ (k + 1) := Nat.pow_dvd_pow 2 (Nat.le_succ k)
  rw [magnitudeBits, ofSignMagnitude, BitVec.toNat_ofNat, Nat.mod_mod_of_dvd _ hdvd]
  cases negative <;> simp [Nat.mod_eq_of_lt h]

theorem sign_ofSignMagnitude (negative : Bool) {m : Nat} (h : m < 2 ^ k) :
    (ofSignMagnitude k negative m).getLsbD k = negative := by
  have hbit := Nat.testBit_lt_two_pow h
  rw [ofSignMagnitude, BitVec.getLsbD_ofNat]
  cases negative <;> simp [hbit, Nat.testBit_two_pow_add_eq]

/-- The largest finite magnitude, in smallest units: all significand bits set, at biased exponent `e + 1`. -/
def maxUnits (f e : Nat) : Nat := (2 ^ (f + 1) - 1) * 2 ^ e

theorem magnitudeUnits_max (f e : Nat) : magnitudeUnits f ((e + 1) * 2 ^ f + (2 ^ f - 1)) = maxUnits f e := by
  have hpos := Nat.two_pow_pos f
  rw [magnitudeUnits_normal e (by omega), maxUnits, Nat.pow_succ]
  congr 1
  omega

theorem roundMagnitude_lt_of_le {n d e : Nat} (hd : 0 < d) (h : (n / d : ℚ) ≤ maxUnits f e / (2 ^ u : ℕ)) :
    roundMagnitude (f + 1) u n d < (e + 2) * 2 ^ f := by
  rw [div_le_div_iff₀ (by exact_mod_cast hd) (by positivity)] at h
  exact roundMagnitude_lt hd (by exact_mod_cast h)

/-- A significand at biased exponent `e`, as binary64 values are written (R9), in smallest units `2^-u`. -/
theorem significand_div_eq (s e u : Nat) :
    ((s * 2 ^ (e - (u + 1)) : ℕ) : ℚ) / (2 ^ (u + 1 - max e 1) : ℕ) = (s * 2 ^ (e - 1) : ℕ) / (2 ^ u : ℕ) := by
  rw [div_eq_div_iff (by positivity) (by positivity)]
  norm_cast
  rw [Nat.mul_assoc, Nat.mul_assoc, ← Nat.pow_add, ← Nat.pow_add]
  congr 2
  omega

/-- A significand at biased exponent `e`, as binary32 values are written (R9), in smallest units `2^-u`. -/
theorem scaledSignificand_div_eq (s e u : Nat) :
    ((s * 2 ^ max e 1 : ℕ) : ℚ) / (2 ^ (u + 1) : ℕ) = (s * 2 ^ (e - 1) : ℕ) / (2 ^ u : ℕ) := by
  rw [div_eq_div_iff (by positivity) (by positivity)]
  norm_cast
  rw [Nat.mul_assoc, Nat.mul_assoc, ← Nat.pow_add, ← Nat.pow_add]
  congr 2
  omega

/-- A distance between two numbers of the same sign, in smallest units. -/
theorem abs_sign_mul_sub {σ : ℝ} (hσ : |σ| = 1) (s : ℝ) (n d u : ℕ) :
    |σ * (s / (2 ^ u : ℕ)) - σ * ((n : ℝ) / d)| = |s - (n * 2 ^ u : ℕ) / d| / (2 ^ u : ℕ) := by
  have hunit : (0 : ℝ) < (2 ^ u : ℕ) := by positivity
  rw [← mul_sub, abs_mul, hσ, one_mul, ← abs_of_pos hunit, ← abs_div, abs_of_pos hunit]
  congr 1
  push_cast
  field_simp

/-- Rounding to nearest, ties to even, of `± n / d` in a format, where the rounded magnitude is finite. -/
theorem nearestEven_roundMagnitude {infinity n d : Nat} (hf : f ≠ 0) (hinf : infinity < 2 ^ k) (negative : Bool)
    (hd : 0 < d) (hfin : roundMagnitude (f + 1) u n d < infinity) :
    NearestEven f u infinity (ofSignMagnitude k negative (roundMagnitude (f + 1) u n d))
      ((signFactor negative * (n / d) : ℚ) : ℝ) := by
  have hlt := hfin.trans hinf
  unfold NearestEven formatValue
  rw [magnitudeBits_ofSignMagnitude negative hlt, sign_ofSignMagnitude negative hlt, roundMagnitude_mod_two hf]
  refine ⟨hfin, fun c _ => ?_⟩
  have hone : ((signFactor negative : ℚ) : ℝ) * signFactor negative = 1 := by
    exact_mod_cast signFactor_mul_self negative
  have habs : |((signFactor negative : ℚ) : ℝ)| = 1 := by exact_mod_cast abs_signFactor negative
  have hcabs : |((signFactor (c.getLsbD k) : ℚ) : ℝ)| = 1 := by exact_mod_cast abs_signFactor (c.getLsbD k)
  have hunit : (0 : ℝ) < (2 ^ u : ℕ) := by positivity
  have ht : |(signFactor negative * signFactor (c.getLsbD k) * magnitudeUnits f (magnitudeBits c) : ℝ)|
      = magnitudeUnits f (magnitudeBits c) := by
    rw [abs_mul, abs_mul, habs, hcabs, one_mul, one_mul, Nat.abs_cast]
  obtain ⟨hle, htie⟩ := roundMagnitude_nearest (u := u) (n := n) hd ht
  generalize roundMagnitude (f + 1) u n d = m at *
  generalize magnitudeBits c = mc at *
  have hc : (signFactor (c.getLsbD k) * ((magnitudeUnits f mc : ℝ) / (2 ^ u : ℕ)) : ℝ) = signFactor negative *
      (signFactor negative * signFactor (c.getLsbD k) * magnitudeUnits f mc / (2 ^ u : ℕ)) := by
    linear_combination (-(signFactor (c.getLsbD k) * ((magnitudeUnits f mc : ℝ) / (2 ^ u : ℕ)) : ℝ)) * hone
  rw [Rat.cast_mul, Rat.cast_mul, Rat.cast_mul, Rat.cast_div, Rat.cast_div, Rat.cast_div, Rat.cast_natCast,
    Rat.cast_natCast, Rat.cast_natCast, Rat.cast_natCast, Rat.cast_natCast, hc,
    abs_sign_mul_sub habs, abs_sign_mul_sub habs]
  refine ⟨div_le_div_of_nonneg_right hle hunit.le, fun hne heq => htie (fun h => hne ?_) ?_⟩
  · rw [h] at hc
    refine Rat.cast_injective (α := ℝ) ?_
    push_cast at hc ⊢
    exact hc
  · exact (div_left_inj' hunit.ne').mp heq

end Formats

/-! ## binary64 and binary32 as such patterns -/

/-- The magnitude bits of the infinity of binary64. -/
def infinity64 : Nat := 2047 * 2 ^ 52

/-- The magnitude bits of the infinity of binary32. -/
def infinity32 : Nat := 255 * 2 ^ 23

theorem exponent64_eq (v : F64) : exponent64 v = magnitudeBits (k := 63) v / 2 ^ 52 := by
  have := v.isLt
  simp only [exponent64, magnitudeBits, BitVec.extractLsb'_toNat, Nat.shiftRight_eq_div_pow]
  omega

theorem fraction64_eq (v : F64) : fraction64 v = magnitudeBits (k := 63) v % 2 ^ 52 := by
  simp only [fraction64, magnitudeBits, BitVec.extractLsb'_toNat, Nat.shiftRight_zero]
  omega

theorem exponent32_eq (v : F32) : exponent32 v = magnitudeBits (k := 31) v / 2 ^ 23 := by
  have := v.isLt
  simp only [exponent32, magnitudeBits, BitVec.extractLsb'_toNat, Nat.shiftRight_eq_div_pow]
  omega

theorem fraction32_eq (v : F32) : fraction32 v = magnitudeBits (k := 31) v % 2 ^ 23 := by
  simp only [fraction32, magnitudeBits, BitVec.extractLsb'_toNat, Nat.shiftRight_zero]
  omega

theorem magnitudeUnits_eq64 (v : F64) :
    magnitudeUnits 52 (magnitudeBits (k := 63) v) = significand64 v * 2 ^ (exponent64 v - 1) := by
  rw [magnitudeUnits, ← exponent64_eq, ← fraction64_eq, significand64]

theorem magnitudeUnits_eq32 (v : F32) :
    magnitudeUnits 23 (magnitudeBits (k := 31) v) = significand32 v * 2 ^ (exponent32 v - 1) := by
  rw [magnitudeUnits, ← exponent32_eq, ← fraction32_eq, significand32]

theorem value64_eq_formatValue (v : F64) : value64 v = formatValue (k := 63) 52 1074 v := by
  rw [formatValue, magnitudeUnits_eq64]
  exact congrArg (signFactor (sign64 v) * ·) (significand_div_eq (significand64 v) (exponent64 v) 1074)

theorem value32_eq_formatValue (v : F32) : value32 v = formatValue (k := 31) 23 149 v := by
  rw [formatValue, magnitudeUnits_eq32]
  exact congrArg (signFactor (sign32 v) * ·) (scaledSignificand_div_eq (significand32 v) (exponent32 v) 149)

theorem finite64_iff (v : F64) : finite64 v = true ↔ magnitudeBits (k := 63) v < infinity64 := by
  have hlt : magnitudeBits (k := 63) v < 2 ^ 63 := Nat.mod_lt _ (by decide)
  rw [finite64, exponent64_eq, bne_iff_ne, infinity64]
  omega

theorem finite32_iff (v : F32) : finite32 v = true ↔ magnitudeBits (k := 31) v < infinity32 := by
  have hlt : magnitudeBits (k := 31) v < 2 ^ 31 := Nat.mod_lt _ (by decide)
  rw [finite32, exponent32_eq, bne_iff_ne, infinity32]
  omega

theorem roundedTo64_iff (v : F64) (r : ℝ) : RoundedTo64 v r ↔ NearestEven (k := 63) 52 1074 infinity64 v r := by
  have heven : fraction64 v % 2 = magnitudeBits (k := 63) v % 2 := by rw [fraction64_eq]; omega
  simp only [RoundedTo64, NearestEven, finite64_iff, value64_eq_formatValue, heven]

theorem roundedTo32_iff (v : F32) (r : ℝ) : RoundedTo32 v r ↔ NearestEven (k := 31) 23 149 infinity32 v r := by
  have heven : fraction32 v % 2 = magnitudeBits (k := 31) v % 2 := by rw [fraction32_eq]; omega
  simp only [RoundedTo32, NearestEven, finite32_iff, value32_eq_formatValue, heven]

/-! ## `round64` and `round32` -/

theorem round64_eq (negative : Bool) (n d : Nat) :
    round64 negative n d = ofSignMagnitude 63 negative (min (roundMagnitude 53 1074 n d) infinity64) := rfl

theorem round32_eq (negative : Bool) (n d : Nat) :
    round32 negative n d = ofSignMagnitude 31 negative (min (roundMagnitude 24 149 n d) infinity32) := rfl

theorem infinity64_lt : infinity64 < 2 ^ 63 := by decide

theorem infinity32_lt : infinity32 < 2 ^ 31 := by decide

theorem sign64_round64 (negative : Bool) (n d : Nat) : sign64 (round64 negative n d) = negative :=
  sign_ofSignMagnitude negative ((Nat.min_le_right _ _).trans_lt infinity64_lt)

/-- A result is finite exactly where the magnitude does not round past the largest finite one. -/
theorem finite64_round64_iff (negative : Bool) (n d : Nat) :
    finite64 (round64 negative n d) = true ↔ roundMagnitude 53 1074 n d < infinity64 := by
  rw [finite64_iff, round64_eq, magnitudeBits_ofSignMagnitude negative ((Nat.min_le_right _ _).trans_lt infinity64_lt)]
  omega

/-- A finite result is the correctly rounded one (R10). -/
theorem roundedTo64_round64 {negative : Bool} {n d : Nat} (hd : 0 < d) (h : finite64 (round64 negative n d) = true) :
    RoundedTo64 (round64 negative n d) ((signFactor negative * (n / d) : ℚ) : ℝ) := by
  have hfin := (finite64_round64_iff negative n d).mp h
  rw [roundedTo64_iff, round64_eq, Nat.min_eq_left hfin.le]
  exact nearestEven_roundMagnitude (by decide) infinity64_lt negative hd hfin

/-- The largest finite binary64 value: significand `2^53 - 1` at biased exponent 2046. -/
theorem maxFinite64_eq : maxFinite64 = (maxUnits 52 2045 : ℚ) / (2 ^ 1074 : ℕ) := by
  have hunits : magnitudeUnits 52 (magnitudeBits (k := 63) 0x7FEFFFFFFFFFFFFF) = maxUnits 52 2045 :=
    magnitudeUnits_max 52 2045
  have hsign : signFactor ((0x7FEFFFFFFFFFFFFF : F64).getLsbD 63) = 1 := rfl
  rw [maxFinite64, value64_eq_formatValue, formatValue, hunits, hsign, one_mul]

/-- The largest finite binary32 value: significand `2^24 - 1` at biased exponent 254. -/
theorem maxFinite32_eq : maxFinite32 = (maxUnits 23 253 : ℚ) / (2 ^ 149 : ℕ) := by
  have hunits : magnitudeUnits 23 (magnitudeBits (k := 31) 0x7F7FFFFF) = maxUnits 23 253 :=
    magnitudeUnits_max 23 253
  have hsign : signFactor ((0x7F7FFFFF : F32).getLsbD 31) = 1 := rfl
  rw [maxFinite32, value32_eq_formatValue, formatValue, hunits, hsign, one_mul]

/-- A magnitude up to the largest finite value rounds to a finite one. -/
theorem finite64_round64 (negative : Bool) {n d : Nat} (hd : 0 < d) (h : (n / d : ℚ) ≤ maxFinite64) :
    finite64 (round64 negative n d) = true := by
  rw [maxFinite64_eq] at h
  exact (finite64_round64_iff negative n d).mpr
    (roundMagnitude_lt_of_le (f := 52) (u := 1074) (e := 2045) hd h)

/-- The binary32 result is the correctly rounded one (R12). -/
theorem roundedTo32_round32 (negative : Bool) {n d : Nat} (hd : 0 < d) (h : (n / d : ℚ) ≤ maxFinite32) :
    RoundedTo32 (round32 negative n d) ((signFactor negative * (n / d) : ℚ) : ℝ) := by
  rw [maxFinite32_eq] at h
  have hfin : roundMagnitude 24 149 n d < infinity32 :=
    roundMagnitude_lt_of_le (f := 23) (u := 149) (e := 253) hd h
  rw [roundedTo32_iff, round32_eq, Nat.min_eq_left hfin.le]
  exact nearestEven_roundMagnitude (by decide) infinity32_lt negative hd hfin

end Sys2Proof.Machine
end

section
/-! PROOF. `mul64`, `div64`, `toF64` (`00_scope.md` R10) and `narrow32` (R12) are correctly rounded. -/

namespace Sys2Proof.Machine

theorem value64_eq (v : F64) : value64 v = signFactor (sign64 v) * (numerator64 v / denominator64 v) := rfl

theorem abs_value64 (v : F64) : |value64 v| = numerator64 v / denominator64 v := by
  rw [value64_eq, abs_mul, abs_signFactor, one_mul, abs_of_nonneg (by positivity)]

theorem value64_ne_zero_iff (v : F64) : value64 v ≠ 0 ↔ significand64 v ≠ 0 := by
  rw [← abs_ne_zero, abs_value64, div_ne_zero_iff, Nat.cast_ne_zero, Nat.cast_ne_zero, numerator64,
    Nat.mul_ne_zero_iff]
  exact ⟨fun h => h.1.1, fun h => ⟨⟨h, (Nat.two_pow_pos _).ne'⟩, (denominator64_pos v).ne'⟩⟩

theorem numerator64_pos {v : F64} (h : significand64 v ≠ 0) : 0 < numerator64 v :=
  Nat.mul_pos (Nat.pos_of_ne_zero h) (Nat.two_pow_pos _)

/-! ## What each operation rounds -/

theorem value64_mul (a b : F64) : value64 a * value64 b = signFactor (sign64 a != sign64 b) *
    ((numerator64 a * numerator64 b : ℕ) / (denominator64 a * denominator64 b : ℕ)) := by
  rw [value64_eq, value64_eq, signFactor_bne]
  push_cast
  rw [mul_mul_mul_comm, div_mul_div_comm]

theorem value64_div (a b : F64) : value64 a / value64 b = signFactor (sign64 a != sign64 b) *
    ((numerator64 a * denominator64 b : ℕ) / (denominator64 a * numerator64 b : ℕ)) := by
  rw [value64_eq, value64_eq, signFactor_bne, mul_div_mul_comm, div_eq_mul_inv (signFactor _), inv_signFactor]
  push_cast
  rw [div_div_div_eq]

theorem mul64_of_finite {a b : F64} (ha : finite64 a = true) (hb : finite64 b = true) :
    mul64 a b = round64 (sign64 a != sign64 b) (numerator64 a * numerator64 b)
      (denominator64 a * denominator64 b) := by
  simp [mul64, ha, hb]

theorem div64_of_finite {a b : F64} (ha : finite64 a = true) (hb : finite64 b = true) (h0 : significand64 b ≠ 0) :
    div64 a b = round64 (sign64 a != sign64 b) (numerator64 a * denominator64 b)
      (denominator64 a * numerator64 b) := by
  simp [div64, ha, hb, h0]

theorem narrow32_of_finite {v : F64} (h : finite64 v = true) :
    narrow32 v = round32 (sign64 v) (numerator64 v) (denominator64 v) := by
  simp [narrow32, h]

/-- Rounding `± n / d` is correct up to the largest finite magnitude. -/
theorem roundedTo64_of_abs_le {negative : Bool} {n d : Nat} (hd : 0 < d)
    (h : |signFactor negative * (n / d : ℚ)| ≤ maxFinite64) :
    RoundedTo64 (round64 negative n d) ((signFactor negative * (n / d) : ℚ) : ℝ) := by
  rw [abs_mul, abs_signFactor, one_mul, abs_of_nonneg (by positivity)] at h
  exact roundedTo64_round64 hd (finite64_round64 negative hd h)

/-- Settles O36: `mul64` rounds the exact product of the fractions, under the exclusive or of the signs. -/
theorem mulIsCorrectlyRounded : Obligations.MulIsCorrectlyRounded := by
  intro a b ha hb hle
  rw [value64_mul] at hle ⊢
  rw [mul64_of_finite ha hb]
  exact roundedTo64_of_abs_le (Nat.mul_pos (denominator64_pos a) (denominator64_pos b)) hle

/-- Settles O37: `div64` rounds the exact quotient of the fractions, under the exclusive or of the signs. -/
theorem divIsCorrectlyRounded : Obligations.DivIsCorrectlyRounded := by
  intro a b ha hb h0 hle
  have hsig := (value64_ne_zero_iff b).mp h0
  rw [value64_div] at hle ⊢
  rw [div64_of_finite ha hb hsig]
  exact roundedTo64_of_abs_le (Nat.mul_pos (denominator64_pos a) (numerator64_pos hsig)) hle

/-- Settles O39: `narrow32` rounds the operand's own fraction and sign. -/
theorem narrowIsCorrectlyRounded : Obligations.NarrowIsCorrectlyRounded := by
  intro v hv hle
  rw [abs_value64] at hle
  rw [narrow32_of_finite hv, value64_eq]
  exact roundedTo32_round32 (sign64 v) (denominator64_pos v) hle

/-! ## `toF64` -/

/-- An integer of at most `f + 1` bits leaves no remainder at its rounding shift. -/
theorem two_pow_roundingShift_dvd {f u n : Nat} (h : n < 2 ^ (f + 1)) :
    2 ^ roundingShift (f + 1) (n * 2 ^ u) 1 ∣ n * 2 ^ u := by
  have hshift : roundingShift (f + 1) (n * 2 ^ u) 1 ≤ u := by
    refine roundingShift_le ?_
    rw [Nat.div_one]
    exact Nat.mul_lt_mul_of_pos_right h (Nat.two_pow_pos u)
  exact Dvd.dvd.mul_left (Nat.pow_dvd_pow 2 hshift) n

/-- An integer of at most 53 bits is rounded to itself. -/
theorem value64_round64_of_lt {n : Nat} (negative : Bool) (h : n < 2 ^ 53)
    (hfin : finite64 (round64 negative n 1) = true) : value64 (round64 negative n 1) = signFactor negative * n := by
  have hlt := (finite64_round64_iff negative n 1).mp hfin
  have hunits := magnitudeUnits_roundMagnitude_exact (two_pow_roundingShift_dvd (f := 52) (u := 1074) h)
  have hunit (u : ℕ) : ((2 ^ u : ℕ) : ℚ) ≠ 0 := by positivity
  rw [value64_eq_formatValue, round64_eq, Nat.min_eq_left hlt.le, formatValue,
    sign_ofSignMagnitude negative (hlt.trans infinity64_lt),
    magnitudeBits_ofSignMagnitude negative (hlt.trans infinity64_lt), hunits, Nat.cast_mul,
    mul_div_cancel_right₀ _ (hunit 1074)]

theorem two_pow_le_maxFinite64 : (2 ^ 53 : ℚ) ≤ maxFinite64 := by decide +kernel

/-- Settles O38: 16 bits fit in the significand. -/
theorem toF64IsExact : Obligations.ToF64IsExact := by
  intro n
  have hn : n.toNat < 2 ^ 53 := n.isLt.trans (by decide)
  have hle : ((n.toNat : ℚ) / (1 : ℕ)) ≤ maxFinite64 := by
    rw [Nat.cast_one, div_one]
    exact (by exact_mod_cast hn.le : (n.toNat : ℚ) ≤ 2 ^ 53).trans two_pow_le_maxFinite64
  have hfin := finite64_round64 false Nat.one_pos hle
  refine ⟨hfin, ?_, sign64_round64 false n.toNat 1⟩
  rw [toF64, value64_round64_of_lt false hn hfin]
  rw [signFactor_false, one_mul]

end Sys2Proof.Machine
end

section
/-! PROOF. Where the model's enclosure settles the rounding, sine and cosine are correctly rounded (`00_scope.md` R11,
log 2): the series' tail is an alternating sum of terms that do not grow, so the true value lies within the last term of
the partial sum, and what rounds both ends of an interval correctly rounds each number between them correctly. -/

namespace Sys2Proof.Machine

/-! ## The exact partial sum -/

/-- The magnitude of term `j` of the series at `x`: the sine's for `odd = 1`, the cosine's for `odd = 0`. -/
noncomputable def seriesTerm (odd : Nat) (x : ℝ) (j : Nat) : ℝ := x ^ (2 * j + odd) / (2 * j + odd).factorial

theorem seriesTerm_succ (odd : Nat) (x : ℝ) (j : Nat) :
    seriesTerm odd x (j + 1) =
      seriesTerm odd x j * (x * x / ((2 * j + odd + 1) * (2 * j + odd + 2) : ℕ)) := by
  have hfact : (((2 * j + odd).factorial : ℕ) : ℝ) ≠ 0 := Nat.cast_ne_zero.mpr (Nat.factorial_ne_zero _)
  rw [seriesTerm, seriesTerm, show 2 * (j + 1) + odd = 2 * j + odd + 1 + 1 by ring, Nat.factorial_succ,
    Nat.factorial_succ]
  push_cast
  field_simp
  ring

/-- The last term of the partial sum, over the sum's denominator. -/
theorem seriesTerm_eq_div {odd : Nat} (hodd : odd ≤ 1) {d : Nat} (hd : 0 < d) (n j : Nat) :
    seriesTerm odd (n / d) j = (n ^ (2 * j + odd) : ℕ) / (seriesDenominator odd d j : ℕ) := by
  have hd' : (d : ℝ) ≠ 0 := by exact_mod_cast hd.ne'
  induction j with
  | zero =>
    have hfact : odd.factorial = 1 := Nat.factorial_eq_one.mpr hodd
    simp [seriesTerm, seriesDenominator, hfact, div_pow]
  | succ j ih =>
    have hden : (seriesDenominator odd d j : ℝ) ≠ 0 := by exact_mod_cast (seriesDenominator_pos odd d j hd).ne'
    rw [seriesTerm_succ, ih, seriesDenominator]
    push_cast
    field_simp
    ring

/-- The model's numerator and denominator are those of the partial sum. -/
theorem seriesNumerator_div_eq_sum {odd : Nat} (hodd : odd ≤ 1) {d : Nat} (hd : 0 < d) (n k : Nat) :
    (seriesNumerator odd n d k : ℝ) / (seriesDenominator odd d k : ℕ) =
      ∑ j ∈ Finset.range (k + 1), (-1) ^ j * seriesTerm odd (n / d) j := by
  induction k with
  | zero => simp [seriesTerm_eq_div hodd hd, seriesNumerator]
  | succ k ih =>
    have hfactor : ((d * d * ((2 * k + odd + 1) * (2 * k + odd + 2)) : ℕ) : ℝ) ≠ 0 :=
      Nat.cast_ne_zero.mpr (by positivity)
    have hsign : ((if k % 2 = 0 then -((n ^ (2 * k + odd + 2) : ℕ) : ℤ)
        else ((n ^ (2 * k + odd + 2) : ℕ) : ℤ) : ℤ) : ℝ) = (-1) ^ (k + 1) * (n ^ (2 * (k + 1) + odd) : ℕ) := by
      rw [show 2 * (k + 1) + odd = 2 * k + odd + 2 by ring]
      split
      · next heven => simp [Odd.neg_one_pow (Nat.even_iff.mpr heven).add_one]
      · next hne => simp [Even.neg_one_pow (Nat.not_even_iff_odd.mp (mt Nat.even_iff.mp hne)).add_one]
    rw [Finset.sum_range_succ, ← ih, seriesTerm_eq_div hodd hd, seriesNumerator, Int.cast_add, hsign, add_div,
      mul_div_assoc ((-1 : ℝ) ^ (k + 1))]
    congr 1
    rw [seriesDenominator, Int.cast_mul, Int.cast_natCast, Nat.cast_mul (seriesDenominator odd d k)]
    exact mul_div_mul_right _ _ hfactor

/-! ## The tail -/

/-- An alternating sum of terms that do not grow lies between zero and its first term. -/
theorem hasSum_alternating_bounds {a : ℕ → ℝ} (ha : Antitone a) {l : ℝ} (h : HasSum (fun i => (-1) ^ i * a i) l) :
    0 ≤ l ∧ l ≤ a 0 := by
  have hlow := ha.alternating_series_le_tendsto h.tendsto_sum_nat 0
  have hup := ha.tendsto_le_alternating_series h.tendsto_sum_nat 0
  exact ⟨by simpa using hlow, by simpa using hup⟩

theorem antitone_seriesTerm_tail {odd k : Nat} {x : ℝ} (hx : 0 ≤ x)
    (hgrow : x * x ≤ ((2 * k + odd + 1) * (2 * k + odd + 2) : ℕ)) : Antitone (fun i => seriesTerm odd x (k + i)) := by
  refine antitone_nat_of_succ_le fun i => ?_
  have hterm : 0 ≤ seriesTerm odd x (k + i) := by unfold seriesTerm; positivity
  have hfactor : x * x / ((2 * (k + i) + odd + 1) * (2 * (k + i) + odd + 2) : ℕ) ≤ 1 := by
    refine div_le_one_of_le₀ (hgrow.trans ?_) (Nat.cast_nonneg _)
    exact_mod_cast Nat.mul_le_mul (by omega) (by omega)
  rw [← Nat.add_assoc, seriesTerm_succ]
  exact mul_le_of_le_one_right hterm hfactor

/-- The sum of the series lies within the last term taken of the partial sum. -/
theorem abs_sub_partialSum_le {odd k : Nat} {x S : ℝ} (hx : 0 ≤ x)
    (hgrow : x * x ≤ ((2 * k + odd + 1) * (2 * k + odd + 2) : ℕ))
    (hS : HasSum (fun j => (-1) ^ j * seriesTerm odd x j) S) :
    |S - ∑ j ∈ Finset.range (k + 1), (-1) ^ j * seriesTerm odd x j| ≤ seriesTerm odd x k := by
  have htail := (hasSum_nat_add_iff' k).mpr hS
  have hshift : HasSum (fun i => (-1 : ℝ) ^ i * seriesTerm odd x (k + i))
      ((-1) ^ k * (S - ∑ j ∈ Finset.range k, (-1) ^ j * seriesTerm odd x j)) := by
    refine (htail.mul_left ((-1) ^ k)).congr_fun fun i => ?_
    rw [Nat.add_comm i k, pow_add, ← mul_assoc, ← mul_assoc, ← mul_pow]
    simp
  obtain ⟨hlow, hup⟩ := hasSum_alternating_bounds (antitone_seriesTerm_tail hx hgrow) hshift
  rw [Nat.add_zero] at hup
  rw [Finset.sum_range_succ, ← sub_sub, abs_le]
  rcases neg_one_pow_eq_or ℝ k with hk | hk <;> rw [hk] at hlow hup ⊢ <;> constructor <;> linarith

/-- The enclosure of the sum by the model's fractions. -/
theorem partialSum_enclosure {odd n d k : Nat} {S : ℝ} (hodd : odd ≤ 1) (hd : 0 < d)
    (hgrow : n * n ≤ d * d * ((2 * k + odd + 1) * (2 * k + odd + 2)))
    (hS : HasSum (fun j => (-1) ^ j * seriesTerm odd (n / d) j) S) :
    ((seriesNumerator odd n d k - (n ^ (2 * k + odd) : ℕ) : ℤ) : ℝ) / (seriesDenominator odd d k : ℕ) ≤ S ∧
    S ≤ ((seriesNumerator odd n d k + (n ^ (2 * k + odd) : ℕ) : ℤ) : ℝ) / (seriesDenominator odd d k : ℕ) := by
  have hd' : (0 : ℝ) < d := by exact_mod_cast hd
  have hgrow' : (n : ℝ) / d * (n / d) ≤ ((2 * k + odd + 1) * (2 * k + odd + 2) : ℕ) := by
    rw [div_mul_div_comm, div_le_iff₀' (mul_pos hd' hd')]
    exact_mod_cast hgrow
  have hbound := abs_le.mp (abs_sub_partialSum_le (by positivity) hgrow' hS)
  rw [← seriesNumerator_div_eq_sum hodd hd, seriesTerm_eq_div hodd hd] at hbound
  rw [Int.cast_sub, Int.cast_add, Int.cast_natCast, sub_div, add_div]
  constructor <;> linarith

/-! ## Rounding an enclosure -/

theorem abs_sub_le_abs_sub_iff_of_lt {a b r : ℝ} (h : a < b) : |a - r| ≤ |b - r| ↔ 2 * r ≤ a + b := by
  rw [← sq_le_sq]
  constructor <;> intro <;> nlinarith

theorem abs_sub_le_abs_sub_iff_of_gt {a b r : ℝ} (h : b < a) : |a - r| ≤ |b - r| ↔ a + b ≤ 2 * r := by
  rw [← sq_le_sq]
  constructor <;> intro <;> nlinarith

theorem abs_sub_eq_abs_sub_iff_of_ne {a b r : ℝ} (h : a ≠ b) : |a - r| = |b - r| ↔ 2 * r = a + b := by
  rw [abs_eq_abs]
  constructor
  · rintro (heq | heq)
    · exact absurd (sub_left_injective heq) h
    · linarith
  · exact fun heq => .inr (by linarith)

/-- What is correctly rounded at both ends of an interval is correctly rounded between them. -/
theorem RoundedTo64.between {v : F64} {lo hi r : ℝ} (hlo : RoundedTo64 v lo) (hhi : RoundedTo64 v hi)
    (h1 : lo ≤ r) (h2 : r ≤ hi) : RoundedTo64 v r := by
  refine ⟨hlo.1, fun c hc => ?_⟩
  obtain ⟨hnlo, htlo⟩ := hlo.2 c hc
  obtain ⟨hnhi, hthi⟩ := hhi.2 c hc
  have hcast : value64 c ≠ value64 v → ((value64 v : ℚ) : ℝ) ≠ ((value64 c : ℚ) : ℝ) :=
    fun hne heq => hne (Rat.cast_injective heq).symm
  rcases lt_trichotomy ((value64 v : ℚ) : ℝ) ((value64 c : ℚ) : ℝ) with h | h | h
  · have hmid := (abs_sub_le_abs_sub_iff_of_lt h).mp hnhi
    refine ⟨(abs_sub_le_abs_sub_iff_of_lt h).mpr (by linarith), fun hne heq => hthi hne ?_⟩
    rw [abs_sub_eq_abs_sub_iff_of_ne (hcast hne)] at heq ⊢
    linarith
  · exact ⟨by rw [h], fun hne => absurd h (hcast hne)⟩
  · have hmid := (abs_sub_le_abs_sub_iff_of_gt h).mp hnlo
    refine ⟨(abs_sub_le_abs_sub_iff_of_gt h).mpr (by linarith), fun hne heq => htlo hne ?_⟩
    rw [abs_sub_eq_abs_sub_iff_of_ne (hcast hne)] at heq ⊢
    linarith

theorem sign64_roundSigned (flip : Bool) (n : ℤ) (d : Nat) :
    sign64 (roundSigned flip n d) = (flip != decide (n < 0)) := sign64_round64 _ _ _

theorem signFactor_mul_natAbs (n : ℤ) : signFactor (decide (n < 0)) * n.natAbs = n := by
  rw [Nat.cast_natAbs]
  rcases lt_or_ge n 0 with h | h
  · simp [h, abs_of_neg h]
  · simp [h.not_gt, abs_of_nonneg h]

theorem roundedTo64_roundSigned {flip : Bool} {n : ℤ} {d : Nat} (hd : 0 < d)
    (h : finite64 (roundSigned flip n d) = true) :
    RoundedTo64 (roundSigned flip n d) (signFactor flip * (n / d)) := by
  have hround := roundedTo64_round64 hd h
  rw [signFactor_bne, mul_assoc, ← mul_div_assoc (signFactor (decide (n < 0))), signFactor_mul_natAbs] at hround
  exact_mod_cast hround

theorem finite64_roundSigned (flip : Bool) {n : ℤ} {d : Nat} (hd : 0 < d) (h : |(n / d : ℝ)| ≤ 1) :
    finite64 (roundSigned flip n d) = true := by
  have hone : (1 : ℚ) ≤ maxFinite64 := le_trans (by norm_num) two_pow_le_maxFinite64
  refine finite64_round64 _ hd (le_trans ?_ hone)
  rw [abs_div, Nat.abs_cast] at h
  rw [Nat.cast_natAbs]
  exact_mod_cast h

/-- The common rounding of the ends of an enclosure of a number up to 1 in magnitude is finite: the ends have the same
sign, so one of them lies between 0 and the number. -/
theorem finite64_of_enclosure {flip : Bool} {lo hi : ℤ} {d : Nat} {v : F64} {S : ℝ} (hd : 0 < d) (hS : |S| ≤ 1)
    (h1 : (lo / d : ℝ) ≤ S) (h2 : S ≤ (hi / d : ℝ)) (hlo : roundSigned flip lo d = v)
    (hhi : roundSigned flip hi d = v) : finite64 v = true := by
  obtain ⟨hSlow, hSup⟩ := abs_le.mp hS
  have hsigns : decide (lo < 0) = decide (hi < 0) := by
    have := congrArg sign64 (hlo.trans hhi.symm)
    rw [sign64_roundSigned, sign64_roundSigned] at this
    exact Bool.bne_right_inj.mp this
  rcases lt_or_ge hi 0 with hneg | hpos
  · have hend : (hi / d : ℝ) ≤ 0 := div_nonpos_of_nonpos_of_nonneg (by exact_mod_cast hneg.le) (Nat.cast_nonneg d)
    rw [← hhi]
    exact finite64_roundSigned flip hd (abs_le.mpr ⟨by linarith, by linarith⟩)
  · have hlo0 : 0 ≤ lo := by simpa [hpos.not_gt] using hsigns
    have hend : 0 ≤ (lo / d : ℝ) := div_nonneg (by exact_mod_cast hlo0) (Nat.cast_nonneg d)
    rw [← hlo]
    exact finite64_roundSigned flip hd (abs_le.mpr ⟨by linarith, by linarith⟩)

/-- The common rounding of the ends of an enclosure is the enclosed number's, flipped where the ends are. -/
theorem roundedTo64_of_enclosure {flip : Bool} {lo hi : ℤ} {d : Nat} {v : F64} {S : ℝ} (hd : 0 < d) (hS : |S| ≤ 1)
    (h1 : (lo / d : ℝ) ≤ S) (h2 : S ≤ (hi / d : ℝ)) (hlo : roundSigned flip lo d = v)
    (hhi : roundSigned flip hi d = v) : RoundedTo64 v (signFactor flip * S) := by
  have hfin := finite64_of_enclosure hd hS h1 h2 hlo hhi
  have hrlo := roundedTo64_roundSigned (flip := flip) (n := lo) hd (hlo ▸ hfin)
  have hrhi := roundedTo64_roundSigned (flip := flip) (n := hi) hd (hhi ▸ hfin)
  rw [hlo] at hrlo
  rw [hhi] at hrhi
  cases flip with
  | false =>
    simp only [signFactor_false, Rat.cast_one, one_mul] at hrlo hrhi ⊢
    exact hrlo.between hrhi h1 h2
  | true =>
    simp only [signFactor_true, Rat.cast_neg, Rat.cast_one, neg_one_mul] at hrlo hrhi ⊢
    exact hrhi.between hrlo (neg_le_neg h2) (neg_le_neg h1)

/-- A settled enclosure, taken apart. -/
theorem enclosedRounding_eq_some {odd n d : Nat} {flip : Bool} {v : F64} (h : enclosedRounding odd flip n d = some v) :
    n * n ≤ d * d * ((2 * lastTerm + odd + 1) * (2 * lastTerm + odd + 2)) ∧
    roundSigned flip (seriesNumerator odd n d lastTerm - (n ^ (2 * lastTerm + odd) : ℕ))
      (seriesDenominator odd d lastTerm) = v ∧
    roundSigned flip (seriesNumerator odd n d lastTerm + (n ^ (2 * lastTerm + odd) : ℕ))
      (seriesDenominator odd d lastTerm) = v := by
  unfold enclosedRounding at h
  split at h
  · next hcond =>
    obtain ⟨hgrow, hends⟩ := hcond
    have hlow := Option.some.inj h
    exact ⟨hgrow, hlow, hends.symm.trans hlow⟩
  · cases h

/-- A settled enclosure of the series' sum is that sum correctly rounded. -/
theorem roundedTo64_of_enclosedRounding {odd n d : Nat} {flip : Bool} {v : F64} {S : ℝ} (hodd : odd ≤ 1) (hd : 0 < d)
    (hsum : HasSum (fun j => (-1) ^ j * seriesTerm odd (n / d) j) S) (hS : |S| ≤ 1)
    (h : enclosedRounding odd flip n d = some v) : RoundedTo64 v (signFactor flip * S) := by
  obtain ⟨hgrow, hlo, hhi⟩ := enclosedRounding_eq_some h
  obtain ⟨h1, h2⟩ := partialSum_enclosure hodd hd hgrow hsum
  exact roundedTo64_of_enclosure (seriesDenominator_pos odd d lastTerm hd) hS h1 h2 hlo hhi

/-! ## Sine and cosine -/

theorem hasSum_seriesTerm_sin (x : ℝ) : HasSum (fun j => (-1) ^ j * seriesTerm 1 x j) (Real.sin x) := by
  simpa only [seriesTerm, mul_div_assoc] using Real.hasSum_sin x

theorem hasSum_seriesTerm_cos (x : ℝ) : HasSum (fun j => (-1) ^ j * seriesTerm 0 x j) (Real.cos x) := by
  simpa only [seriesTerm, Nat.add_zero, mul_div_assoc] using Real.hasSum_cos x

theorem sin_signFactor_mul (negative : Bool) (x : ℝ) :
    Real.sin (signFactor negative * x) = signFactor negative * Real.sin x := by
  cases negative <;> simp

theorem cos_signFactor_mul (negative : Bool) (x : ℝ) : Real.cos (signFactor negative * x) = Real.cos x := by
  cases negative <;> simp

theorem value64_eq_real (v : F64) :
    ((value64 v : ℚ) : ℝ) = signFactor (sign64 v) * ((numerator64 v : ℝ) / denominator64 v) := by
  rw [value64_eq, Rat.cast_mul, Rat.cast_div, Rat.cast_natCast, Rat.cast_natCast]

theorem certifiedSin_roundedTo64 {a v : F64} (h : certifiedSin a = some v) :
    RoundedTo64 v (Real.sin ((value64 a : ℚ) : ℝ)) := by
  unfold certifiedSin at h
  split at h
  · rw [value64_eq_real, sin_signFactor_mul]
    exact roundedTo64_of_enclosedRounding le_rfl (denominator64_pos a) (hasSum_seriesTerm_sin _)
      (Real.abs_sin_le_one _) h
  · cases h

theorem certifiedCos_roundedTo64 {a v : F64} (h : certifiedCos a = some v) :
    RoundedTo64 v (Real.cos ((value64 a : ℚ) : ℝ)) := by
  unfold certifiedCos at h
  split at h
  · rw [value64_eq_real, cos_signFactor_mul]
    have hround := roundedTo64_of_enclosedRounding (Nat.zero_le 1) (denominator64_pos a) (hasSum_seriesTerm_cos _)
      (Real.abs_cos_le_one _) h
    rwa [signFactor_false, Rat.cast_one, one_mul] at hround
  · cases h

/-- Settles O41: both series, at the magnitude of the argument, with the sine's sign taken outside. -/
theorem certifiedTrigIsCorrectlyRounded : Obligations.CertifiedTrigIsCorrectlyRounded :=
  ⟨fun _ _ => certifiedSin_roundedTo64, fun _ _ => certifiedCos_roundedTo64⟩

end Sys2Proof.Machine
end

section
/-! PROOF. The state of the block (`10_state.md`): what it holds after reset and as built, what every step keeps of it,
where a request stands in the pipeline, and what the port shows. -/

namespace Sys2Proof.Machine

/-! ## The read-only storage as built -/

theorem specConstants_buildHardware (T : Trig) (vangle : Vector F64 16) (latency : Nat) :
    (buildHardware T vangle latency).SpecConstants := ⟨rfl, rfl, rfl, rfl⟩

/-- Each location of the ROM is made from the angle of its own index (R23). -/
theorem romRead_buildHardware (T : Trig) (vangle : Vector F64 16) (latency : Nat) (k : BitVec 4) :
    romRead (buildHardware T vangle latency) k = romEntry T (vangle[k.toNat]'k.isLt) :=
  Vector.getElem_map (romEntry T) k.isLt

/-- Settles O17: the entry of each index is `romEntry` of its angle. -/
theorem romHoldsCosAndSin : Obligations.RomHoldsCosAndSin := by
  intro T vangle latency k
  rw [romRead_buildHardware]
  exact ⟨rfl, rfl⟩

/-! ## The reset state -/

/-- An emptied pipeline has the stages of a real block, and no valid response (R28, R30). -/
theorem State.Quiescent.wf {s : State} (h : s.Quiescent) : s.Wf := by
  obtain ⟨hstages, hvalid⟩ := h
  exact ⟨by rw [hstages, List.length_replicate], fun _ => hvalid⟩

theorem quiescent_reset : State.reset.Quiescent := ⟨rfl, rfl⟩

/-- Settles O13: the reset state is quiescent by its fields, its storage that of a built block. -/
theorem resetStateAsStated : Obligations.ResetStateAsStated :=
  ⟨quiescent_reset, settled_of_wasReset rfl, specConstants_buildHardware trigCR Config.vangle Config.latency,
    romRead_buildHardware trigCR Config.vangle Config.latency⟩

/-- Settles O14: the reset state is quiescent. -/
theorem resetIsWellFormed : Obligations.ResetIsWellFormed := quiescent_reset.wf

/-! ## What every step keeps -/

theorem quiescent_resetEdge (s : State) : (resetEdge s).Quiescent :=
  ⟨by rw [resetEdge_stages, resetEdge_hw], resetEdge_rspValid s⟩

/-- Whatever enters stage 1, the last stage is pushed out, and the number of stages stays (R28). -/
theorem stagesAfter_length {s : State} (h : s.Wf) (req : Option Request) :
    (stagesAfter s req).length = s.hw.latency - 1 := by
  obtain ⟨hlen, -⟩ := h
  rw [stagesAfter, List.length_take, List.length_cons, hlen]
  omega

/-- An edge without reset keeps the invariant, whether the registers follow the pipeline or are free (R28, R136). -/
theorem wf_clockEdge {s : State} (h : s.Wf) (req : Option Request) : (clockEdge s req).Wf := by
  unfold State.Wf
  rw [clockEdge_hw]
  cases hs : s.settled with
  | true =>
    rw [clockEdge_stages hs, clockEdge_rspValid hs]
    exact ⟨stagesAfter_length h req, fun h0 => by rw [leaving_of_zero h0, Option.isSome_none]⟩
  | false =>
    obtain ⟨-, hpos⟩ := settled_eq_false.mp hs
    rw [clockEdge_stages_of_not_settled hs]
    exact ⟨powerUpStages_length _ _, fun h0 => by omega⟩

/-- Settles O15: a step is a reset edge, which empties the pipeline, or an edge without reset. -/
theorem stepKeepsWellFormed : Obligations.StepKeepsWellFormed := by
  intro s t hwf hstep
  rw [step_eq, Host.Outcome.next.injEq] at hstep
  subst hstep
  split
  · exact (quiescent_resetEdge s).wf
  · exact wf_clockEdge hwf _

/-! ## Where a request stands -/

theorem cycleAt_zero (s : State) : cycleAt s.host 0 = currentCycle s := by
  unfold cycleAt currentCycle
  cases s.host <;> rfl

theorem cycleAt_tail (host : List HostCycle) (i : Nat) : cycleAt host.tail i = cycleAt host (i + 1) := by
  unfold cycleAt
  cases host <;> rfl

/-- A run whose first edge has `rst = 0`: that edge, then the rest of the run. -/
theorem reachesIn_succ_of_rst_eq_false {s : State} (h : (currentCycle s).rst = false) (n : Nat) (t : State) :
    ReachesIn (n + 1) s t ↔ ReachesIn n (clockEdge s (currentCycle s).acceptedRequest) t := by
  unfold ReachesIn
  rw [run_succ, h]
  rfl

/-- An accepted request enters the first stage (R28). -/
theorem clockEdge_stages_getElem?_zero {s : State} (hs : s.settled = true) (h : 1 < s.hw.latency)
    (req : Option Request) : (clockEdge s req).stages[0]? = some req := by
  rw [clockEdge_stages hs, stagesAfter, List.getElem?_take_of_lt (by omega), List.getElem?_cons_zero]

/-- What stands in a stage moves on to the next one (R28). -/
theorem clockEdge_stages_getElem?_succ {s : State} (hs : s.settled = true) {k : Nat} (h : k + 2 < s.hw.latency)
    (req : Option Request) : (clockEdge s req).stages[k + 1]? = s.stages[k]? := by
  rw [clockEdge_stages hs, stagesAfter, List.getElem?_take_of_lt (by omega), List.getElem?_cons_succ]

/-- Over `n` edges without reset, what stands in a stage moves on by `n` stages (R28). -/
theorem reachesIn_stages_add (n : Nat) {s : State} {k : Nat} {x : Option Request} (hs : s.settled = true)
    (hk : k + n + 1 < s.hw.latency) (hrst : ∀ i < n, (cycleAt s.host i).rst = false) (hx : s.stages[k]? = some x) :
    ∃ t, ReachesIn n s t ∧ t.stages[k + n]? = some x := by
  induction n generalizing s k with
  | zero => exact ⟨s, rfl, hx⟩
  | succ n ih =>
    have hnow : (currentCycle s).rst = false := cycleAt_zero s ▸ hrst 0 n.succ_pos
    obtain ⟨t, hrun, hstage⟩ := ih (s := clockEdge s (currentCycle s).acceptedRequest) (k := k + 1)
      (by rw [clockEdge_settled, hs]) (by rw [clockEdge_hw]; omega)
      (fun i hi => by rw [clockEdge_host, cycleAt_tail]; exact hrst (i + 1) (by omega))
      (by rw [clockEdge_stages_getElem?_succ hs (by omega), hx])
    refine ⟨t, (reachesIn_succ_of_rst_eq_false hnow n t).mpr hrun, ?_⟩
    rwa [Nat.add_right_comm] at hstage

theorem HostCycle.rst_eq_false_of_accepted {c : HostCycle} (h : c.accepted = true) : c.rst = false := by
  simp only [HostCycle.accepted, Bool.and_eq_true, Bool.not_eq_true'] at h
  exact h.2

/-- Settles O20: the request enters stage 1 at its own edge and moves on at each of the `j - 1` edges after it. -/
theorem requestOccupiesStage : Obligations.RequestOccupiesStage := by
  intro s j _ hs hj hlt hacc hrst
  obtain ⟨n, rfl⟩ := Nat.exists_eq_add_of_le' hj
  have hreq : (currentCycle s).acceptedRequest = some (currentCycle s).request := if_pos hacc
  obtain ⟨t, hrun, hstage⟩ := reachesIn_stages_add n (s := clockEdge s (currentCycle s).acceptedRequest) (k := 0)
    (by rw [clockEdge_settled, hs]) (by rw [clockEdge_hw]; omega)
    (fun i hi => by rw [clockEdge_host, cycleAt_tail]; exact hrst (i + 1) (by omega) (by omega))
    (clockEdge_stages_getElem?_zero hs (by omega) _)
  refine ⟨t, (reachesIn_succ_of_rst_eq_false (HostCycle.rst_eq_false_of_accepted hacc) n t).mpr hrun, ?_⟩
  rwa [Nat.zero_add, hreq] at hstage

/-! ## The port -/

/-- The registered port (R29), whatever the host presents. -/
theorem port_of_one_le {s : State} (h : 1 ≤ s.hw.latency) :
    s.port = { valid := s.rspValid, response := s.registers } :=
  portWith_of_pos (Nat.one_le_iff_ne_zero.mp h) _

/-- Settles O19: the host's list is in no register. -/
theorem registeredOutputsIgnorePins : Obligations.RegisteredOutputsIgnorePins := by
  intro s host h
  have hother : ({ s with host := host } : State).port = { valid := s.rspValid, response := s.registers } :=
    port_of_one_le (s := { s with host := host }) h
  exact ⟨port_of_one_le h, hother.trans (port_of_one_le h).symm⟩

end Sys2Proof.Machine
end

section
/-! PROOF. The constants (`10_state.md` R21) are their real numbers correctly rounded. -/

namespace Sys2Proof.Machine

/-- What the model's rounding of a fraction answers is that fraction correctly rounded, where it is finite. -/
theorem roundedTo64_of_round64_eq {n d : Nat} {v : F64} (hd : 0 < d) (hfin : finite64 v = true)
    (h : round64 false n d = v) : RoundedTo64 v (n / d) := by
  subst h
  simpa using roundedTo64_round64 hd hfin

theorem value64_const100 : value64 const100 = 100 := by decide +kernel

theorem value64_const180 : value64 const180 = 180 := by decide +kernel

theorem value64_constScale : value64 constScale = 1152921504606847 / 2 ^ 59 := by decide +kernel

theorem value64_constPi : value64 constPi = 884279719003555 / 2 ^ 48 := by decide +kernel

theorem roundedTo64_constScale : RoundedTo64 constScale (2 / 1000) := by
  exact_mod_cast roundedTo64_of_round64_eq (n := 2) (d := 1000) (by decide) (by decide) (by decide +kernel)

theorem roundedTo64_const100 : RoundedTo64 const100 100 := by
  simpa using roundedTo64_of_round64_eq (n := 100) Nat.one_pos (v := const100) (by decide) (by decide +kernel)

theorem roundedTo64_const180 : RoundedTo64 const180 180 := by
  simpa using roundedTo64_of_round64_eq (n := 180) Nat.one_pos (v := const180) (by decide) (by decide +kernel)

/-- Both ends of an interval of width `10^-20` that encloses π round to `C_PI`. -/
theorem roundedTo64_constPi : RoundedTo64 constPi Real.pi := by
  have hlo : RoundedTo64 constPi ((314159265358979323846 : ℕ) / (10 ^ 20 : ℕ)) :=
    roundedTo64_of_round64_eq (by decide) (by decide) (by decide +kernel)
  have hhi : RoundedTo64 constPi ((314159265358979323847 : ℕ) / (10 ^ 20 : ℕ)) :=
    roundedTo64_of_round64_eq (by decide) (by decide) (by decide +kernel)
  refine hlo.between hhi ?_ ?_
  · have := Real.pi_gt_d20
    norm_num at this ⊢
    linarith
  · have := Real.pi_lt_d20
    norm_num at this ⊢
    linarith

/-- Settles O40: the model's rounding of each number is the constant; the errors follow from the exact fractions and
the digits of π. -/
theorem constantsAreNearest : Obligations.ConstantsAreNearest := by
  refine ⟨roundedTo64_constScale, roundedTo64_const100, roundedTo64_constPi, roundedTo64_const180, value64_const100,
    value64_const180, value64_constScale, ?_, ?_, ?_, ?_, specConstants_buildHardware⟩
  · rw [value64_constScale]; norm_num
  · rw [value64_constScale]; norm_num
  · have := Real.pi_gt_d20
    rw [value64_constPi]
    norm_num at this ⊢
    linarith
  · have := Real.pi_lt_d20
    rw [value64_constPi]
    norm_num at this ⊢
    linarith

end Sys2Proof.Machine
end

section
/-! PROOF. Order (`20_memory.md` R48): a run as iterated rising edges, what one edge gives the host and still owes it,
and how the block drains; from these, the responses to a run and to one data block (R51). -/

namespace Sys2Proof.Machine

/-! ## A run is an iterated rising edge -/

/-- The state after one rising edge: `step` without its outcome, which is always a next state (R110). -/
def edge (s : State) : State :=
  if (currentCycle s).rst then resetEdge s else clockEdge s (currentCycle s).acceptedRequest

theorem edge_of_rst {s : State} (h : (currentCycle s).rst = true) : edge s = resetEdge s := if_pos h

theorem edge_of_not_rst {s : State} (h : (currentCycle s).rst = false) :
    edge s = clockEdge s (currentCycle s).acceptedRequest := by
  rw [edge, h]; rfl

theorem step_eq_edge (s : State) : step s = .next (edge s) := step_eq s

theorem run_eq_iterate_edge (n : Nat) (s : State) : Host.Core.run Sys2Proof.core n s = .next (edge^[n] s) := by
  induction n generalizing s with
  | zero => rfl
  | succ n ih => rw [run_succ, Function.iterate_succ_apply]; exact ih (edge s)

theorem reachesIn_iterate_edge (n : Nat) (s : State) : ReachesIn n s (edge^[n] s) := run_eq_iterate_edge n s

@[simp] theorem edge_hw (s : State) : (edge s).hw = s.hw := by unfold edge; split <;> simp

@[simp] theorem edge_host (s : State) : (edge s).host = s.host.tail := by unfold edge; split <;> simp

theorem edge_settled {s : State} (h : s.settled = true) : (edge s).settled = true := by unfold edge; split <;> simp [h]

theorem edge_wf {s : State} (h : s.Wf) : (edge s).Wf := stepKeepsWellFormed s (edge s) h (step_eq_edge s)

@[simp] theorem iterate_edge_hw (n : Nat) (s : State) : (edge^[n] s).hw = s.hw := by
  induction n generalizing s with
  | zero => rfl
  | succ n ih => rw [Function.iterate_succ_apply, ih, edge_hw]

@[simp] theorem iterate_edge_host (n : Nat) (s : State) : (edge^[n] s).host = s.host.drop n := by
  induction n generalizing s with
  | zero => rfl
  | succ n ih => rw [Function.iterate_succ_apply, ih, edge_host, List.drop_tail]

theorem iterate_edge_settled (n : Nat) {s : State} (h : s.settled = true) : (edge^[n] s).settled = true :=
  Function.Iterate.rec (fun t : State => t.settled = true) h (fun _ => edge_settled) n

theorem iterate_edge_wf (n : Nat) {s : State} (h : s.Wf) : (edge^[n] s).Wf :=
  Function.Iterate.rec State.Wf h (fun _ => edge_wf) n

/-! ## The host's cycles, first cycle first -/

theorem acceptedIn_succ (n : Nat) (s : State) :
    acceptedIn (n + 1) s.host = (currentCycle s).acceptedRequest.toList ++ acceptedIn n s.host.tail := by
  unfold acceptedIn currentCycle
  cases s.host with
  | nil => simp [HostCycle.acceptedRequest, HostCycle.accepted, idleCycle]
  | cons c rest => cases hc : c.acceptedRequest <;> simp [hc]

theorem noReset_succ (n : Nat) (s : State) :
    noReset (n + 1) s.host ↔ (currentCycle s).rst = false ∧ noReset n s.host.tail := by
  unfold noReset currentCycle
  cases s.host <;> simp [idleCycle]

theorem allTaken_succ (n : Nat) (s : State) :
    allTaken (n + 1) s.host ↔ (currentCycle s).takes = true ∧ allTaken n s.host.tail := by
  unfold allTaken currentCycle
  cases s.host <;> simp [idleCycle]

/-! ## One edge: what the host receives, what moves on, what is owed -/

/-- One edge shifts the pipeline by one place (R28): the accepted request in front of the stages is the new stages with
what leaves behind them. -/
theorem cons_stages_eq {s : State} (h : s.Wf) (hpos : 1 ≤ s.hw.latency) (req : Option Request) :
    req :: s.stages = stagesAfter s req ++ [leaving s req] := by
  obtain ⟨hlen, -⟩ := h
  have hlast : s.hw.latency - 1 < (req :: s.stages).length := by rw [List.length_cons]; omega
  have hleaving : leaving s req = (req :: s.stages)[s.hw.latency - 1] := by
    rw [leaving, if_neg (by omega), List.getElem?_eq_getElem hlast, Option.join_some]
  rw [hleaving, stagesAfter, List.take_append_getElem hlast, List.take_of_length_le (by rw [List.length_cons]; omega)]

/-- No request is lost, duplicated or overtaken inside the pipeline (R48): the one that leaves is the oldest, the one
accepted is the newest. -/
theorem leaving_append_stagesAfter {s : State} (h : s.Wf) (hpos : 1 ≤ s.hw.latency) (req : Option Request) :
    (leaving s req).toList ++ (stagesAfter s req).reverse.filterMap id = s.inFlight ++ req.toList := by
  have hshift := congrArg (fun l => l.reverse.filterMap id) (cons_stages_eq h hpos req)
  have hsingle : ∀ x : Option Request, [x].filterMap id = x.toList := by rintro (_ | r) <;> rfl
  simpa only [State.inFlight, List.reverse_cons, List.reverse_append, List.reverse_nil, List.nil_append,
    List.filterMap_append, hsingle] using hshift.symm

/-- What is owed after an edge without reset: the response of the request that left, then those of the new stages. -/
theorem owed_clockEdge {s : State} (hs : s.settled = true) (req : Option Request) :
    (clockEdge s req).owed =
      ((leaving s req).toList ++ (stagesAfter s req).reverse.filterMap id).map (respondTo s.hw) := by
  rw [State.owed, State.inFlight, clockEdge_rspValid hs, clockEdge_registers hs, clockEdge_stages hs, clockEdge_hw,
    List.map_append]
  cases leaving s req <;> rfl

/-- A block of latency 0 has no register, so it owes nothing between its cycles (R28). -/
theorem owed_of_zero {s : State} (h : s.Wf) (h0 : s.hw.latency = 0) : s.owed = [] := by
  obtain ⟨hlen, hvalid⟩ := h
  have hstages : s.stages = [] := List.eq_nil_of_length_eq_zero (by omega)
  simp [State.owed, State.inFlight, hvalid h0, hstages]

theorem owed_of_quiescent {s : State} (h : s.Quiescent) : s.owed = [] := by
  obtain ⟨hstages, hvalid⟩ := h
  simp [State.owed, State.inFlight, hvalid, hstages]

theorem receivedAfter_of_takes {s : State} (h : (currentCycle s).takes = true) (p : Port) :
    receivedAfter s p = s.received ++ if p.valid then [p.response] else [] := by
  rw [receivedAfter, h, Bool.and_true]
  split <;> simp

/-- With latency 0 the port shows exactly the response to the request of the cycle (R135). -/
theorem portWith_responses_of_zero {s : State} (h0 : s.hw.latency = 0) (req : Option Request) :
    (if (portWith s req).valid then [(portWith s req).response] else []) = req.toList.map (respondTo s.hw) := by
  cases req with
  | some r => rw [portWith_of_zero h0]; rfl
  | none => simp [portWith, h0]

/-- R48 for one edge without reset whose port the host samples: received and owed together gain the response to the
accepted request, at the end, and nothing else. -/
theorem received_append_owed_clockEdge {s : State} (h : s.Wf) (hs : s.settled = true)
    (htake : (currentCycle s).takes = true) (req : Option Request) :
    (clockEdge s req).received ++ (clockEdge s req).owed =
      s.received ++ s.owed ++ req.toList.map (respondTo s.hw) := by
  rw [clockEdge_received, receivedAfter_of_takes htake]
  rcases Nat.eq_zero_or_pos s.hw.latency with h0 | hpos
  · have howed : (clockEdge s req).owed = [] := owed_of_zero (wf_clockEdge h req) (by rw [clockEdge_hw, h0])
    rw [portWith_responses_of_zero h0, howed, owed_of_zero h h0, List.append_nil, List.append_nil]
  · rw [portWith_of_pos (by omega), owed_clockEdge hs, leaving_append_stagesAfter h hpos, State.owed, List.map_append]
    simp only [List.append_assoc]

/-! ## A run -/

theorem received_append_owed_iterate_edge (n : Nat) {s : State} (h : s.Wf) (hs : s.settled = true)
    (hrst : noReset n s.host) (htake : allTaken n s.host) :
    (edge^[n] s).received ++ (edge^[n] s).owed =
      s.received ++ s.owed ++ (acceptedIn n s.host).map (respondTo s.hw) := by
  induction n generalizing s with
  | zero => simp [acceptedIn]
  | succ n ih =>
    obtain ⟨hrst0, hrst'⟩ := (noReset_succ n s).mp hrst
    obtain ⟨htake0, htake'⟩ := (allTaken_succ n s).mp htake
    have hrun := ih (edge_wf h) (edge_settled hs) (by rwa [edge_host]) (by rwa [edge_host])
    have hedge := received_append_owed_clockEdge h hs htake0 (currentCycle s).acceptedRequest
    rw [← edge_of_not_rst hrst0] at hedge
    rw [Function.iterate_succ_apply, hrun, hedge, edge_host, edge_hw, acceptedIn_succ, List.map_append,
      List.append_assoc]

/-- Settles O24, by induction on the number of edges, over `received_append_owed_clockEdge`. -/
theorem responsesInOrderOfAcceptance : Obligations.ResponsesInOrderOfAcceptance := fun n s h hs hrst htake =>
  ⟨edge^[n] s, reachesIn_iterate_edge n s, received_append_owed_iterate_edge n h hs hrst htake⟩

/-! ## The block drains -/

/-- The first `k` of the block's `P_LATENCY` registers, stage 1 first and the response registers last, are empty. -/
def State.EmptyUpTo (s : State) (k : Nat) : Prop :=
  (∀ x ∈ s.stages.take k, x = none) ∧ (s.hw.latency ≤ k → s.rspValid = false)

theorem emptyUpTo_zero {s : State} (h : s.Wf) : s.EmptyUpTo 0 := by
  obtain ⟨-, hvalid⟩ := h
  exact ⟨by simp, fun h0 => hvalid (Nat.le_zero.mp h0)⟩

theorem emptyUpTo_of_quiescent {s : State} (h : s.Quiescent) (k : Nat) : s.EmptyUpTo k := by
  obtain ⟨hstages, hvalid⟩ := h
  refine ⟨fun x hx => ?_, fun _ => hvalid⟩
  rw [hstages] at hx
  exact List.eq_of_mem_replicate (List.mem_of_mem_take hx)

theorem quiescent_of_emptyUpTo {s : State} (h : s.Wf) (he : s.EmptyUpTo s.hw.latency) : s.Quiescent := by
  obtain ⟨hlen, -⟩ := h
  obtain ⟨hstages, hvalid⟩ := he
  rw [List.take_of_length_le (by omega)] at hstages
  exact ⟨List.eq_replicate_iff.mpr ⟨hlen, hstages⟩, hvalid le_rfl⟩

/-- An edge that accepts nothing and does not reset moves the empty registers on and adds one (R28). -/
theorem emptyUpTo_clockEdge_none {s : State} {k : Nat} (h : s.Wf) (hs : s.settled = true) (he : s.EmptyUpTo k) :
    (clockEdge s none).EmptyUpTo (k + 1) := by
  obtain ⟨hstages, -⟩ := he
  have hnone : ∀ x ∈ (none :: s.stages).take (k + 1), x = none := by
    rw [List.take_succ_cons]
    exact List.forall_mem_cons.mpr ⟨rfl, hstages⟩
  refine ⟨fun x hx => ?_, fun hk => ?_⟩
  · rw [clockEdge_stages hs] at hx
    exact hnone x (((List.take_prefix _ _).take (k + 1)).subset hx)
  · rw [clockEdge_hw] at hk
    rw [clockEdge_rspValid hs]
    rcases Nat.eq_zero_or_pos s.hw.latency with h0 | hpos
    · rw [leaving_of_zero h0]; rfl
    · have hlen : s.stages.length = s.hw.latency - 1 := h.1
      rw [List.take_of_length_le (by rw [List.length_cons]; omega), cons_stages_eq h hpos] at hnone
      rw [hnone (leaving s none) (List.mem_append_right _ (List.mem_singleton_self _))]; rfl

/-- A silent cycle, reset or not, adds one empty register. -/
theorem emptyUpTo_edge {s : State} {k : Nat} (h : s.Wf) (hs : s.settled = true)
    (hreq : (currentCycle s).acceptedRequest = none) (he : s.EmptyUpTo k) : (edge s).EmptyUpTo (k + 1) := by
  cases hr : (currentCycle s).rst with
  | true => rw [edge_of_rst hr]; exact emptyUpTo_of_quiescent (quiescent_resetEdge s) _
  | false => rw [edge_of_not_rst hr, hreq]; exact emptyUpTo_clockEdge_none h hs he

theorem emptyUpTo_iterate_edge (n : Nat) {s : State} {k : Nat} (h : s.Wf) (hs : s.settled = true)
    (hacc : acceptedIn n s.host = []) (he : s.EmptyUpTo k) : (edge^[n] s).EmptyUpTo (k + n) := by
  induction n generalizing s k with
  | zero => exact he
  | succ n ih =>
    rw [acceptedIn_succ, List.append_eq_nil_iff, Option.toList_eq_nil_iff] at hacc
    obtain ⟨hnow, hlater⟩ := hacc
    have hrun := ih (edge_wf h) (edge_settled hs) (by rwa [edge_host]) (emptyUpTo_edge h hs hnow he)
    rwa [Function.iterate_succ_apply, ← Nat.succ_add_eq_add_succ]

/-- After `P_LATENCY` edges that accept nothing the block is empty (R112). -/
theorem quiescent_iterate_edge {s : State} (h : s.Wf) (hs : s.settled = true)
    (hacc : acceptedIn s.hw.latency s.host = []) : (edge^[s.hw.latency] s).Quiescent := by
  have he := emptyUpTo_iterate_edge s.hw.latency h hs hacc (emptyUpTo_zero h)
  rw [Nat.zero_add] at he
  exact quiescent_of_emptyUpTo (iterate_edge_wf _ h) (by rwa [iterate_edge_hw])

/-! ## A whole program -/

/-- From a quiescent block, once the host's cycles are over and `P_LATENCY` more have passed, nothing is owed any more:
the host has received the responses to its requests, in order (R48, R139). -/
theorem received_iterate_edge_of_quiescent {s : State} (hs : s.settled = true) (hq : s.Quiescent)
    (hrst : ∀ c ∈ s.host, c.rst = false) (htake : ∀ c ∈ s.host, c.takes = true) :
    (edge^[s.host.length + s.hw.latency] s).received =
      s.received ++ (s.host.filterMap HostCycle.acceptedRequest).map (respondTo s.hw) := by
  have hall : s.host.take (s.host.length + s.hw.latency) = s.host := List.take_of_length_le (Nat.le_add_right _ _)
  have horder := received_append_owed_iterate_edge (s.host.length + s.hw.latency) hq.wf hs
    (fun c hc => hrst c (List.mem_of_mem_take hc)) (fun c hc => htake c (List.mem_of_mem_take hc))
  have hdrained : (edge^[s.host.length + s.hw.latency] s).Quiescent := by
    have hlast := quiescent_iterate_edge (iterate_edge_wf s.host.length hq.wf) (iterate_edge_settled s.host.length hs)
      (by simp [acceptedIn])
    rwa [iterate_edge_hw, ← Function.iterate_add_apply, Nat.add_comm] at hlast
  rwa [owed_of_quiescent hdrained, owed_of_quiescent hq, List.append_nil, List.append_nil, acceptedIn, hall] at horder

end Sys2Proof.Machine
end

section
/-! PROOF. The host's side of the boundary (`20_memory.md` R40, R41, R51): the fields of a data block, its requests, and
the responses it brings. -/

namespace Sys2Proof.Machine

/-! ## The fields of a data block -/

theorem littleEndian16_toNat (low high : Byte) : (littleEndian16 low high).toNat = low.toNat + 256 * high.toNat := by
  rw [littleEndian16, BitVec.toNat_append, ← Nat.shiftLeft_add_eq_or_of_lt low.isLt, Nat.shiftLeft_eq]
  omega

/-- The azimuth reads offsets 2 and 3 and no other byte (R41). -/
theorem azField_eq {b : DataBlock} {a0 a1 : Byte} (h0 : b[2]? = some a0) (h1 : b[3]? = some a1) :
    azField b = littleEndian16 a0 a1 := by
  obtain ⟨-, rfl⟩ := Vector.getElem?_eq_some_iff.mp h0
  obtain ⟨-, rfl⟩ := Vector.getElem?_eq_some_iff.mp h1
  rfl

/-- The distance of channel `i` reads offsets `4 + 3i` and `5 + 3i` and no other byte (R40). -/
theorem distField_eq {b : DataBlock} {i : Fin 32} {b0 b1 : Byte} (h0 : b[4 + 3 * i.val]? = some b0)
    (h1 : b[5 + 3 * i.val]? = some b1) : distField b i = littleEndian16 b0 b1 := by
  obtain ⟨-, rfl⟩ := Vector.getElem?_eq_some_iff.mp h0
  obtain ⟨-, rfl⟩ := Vector.getElem?_eq_some_iff.mp h1
  rfl

/-- Two blocks that agree outside the intensity bytes make the same request of each channel (R40). -/
theorem channelRequest_congr {b b' : DataBlock} (h : ∀ k, (∀ j, j < 32 → k ≠ 6 + 3 * j) → b'[k]? = b[k]?)
    (i : Fin 32) : channelRequest b' i = channelRequest b i := by
  have haz : azField b' = azField b :=
    azField_eq ((h 2 (by omega)).trans (Vector.getElem?_eq_getElem (by omega)))
      ((h 3 (by omega)).trans (Vector.getElem?_eq_getElem (by omega)))
  have hdist : distField b' i = distField b i :=
    distField_eq ((h (4 + 3 * i.val) (by omega)).trans (Vector.getElem?_eq_getElem (by omega)))
      ((h (5 + 3 * i.val) (by omega)).trans (Vector.getElem?_eq_getElem (by omega)))
  rw [channelRequest, channelRequest, haz, hdist]

/-- Settles O48: the field is `littleEndian16` of its two bytes, and no offset read is an intensity byte's. -/
theorem distanceFieldIsLittleEndian : Obligations.DistanceFieldIsLittleEndian := by
  refine ⟨fun b i b0 b1 h0 h1 => ?_, fun b b' h => ?_⟩
  · rw [distField_eq h0 h1, littleEndian16_toNat]
  · exact List.map_congr_left fun i _ => channelRequest_congr h i

/-- Settles O49: the field is `littleEndian16` of its two bytes, and every channel's request carries it. -/
theorem azimuthFieldIsLittleEndian : Obligations.AzimuthFieldIsLittleEndian := by
  intro b a0 a1 h0 h1
  refine ⟨by rw [azField_eq h0 h1, littleEndian16_toNat], fun r hr => ?_⟩
  obtain ⟨i, -, rfl⟩ := List.mem_map.mp hr
  rfl

/-! ## One data block -/

theorem acceptedRequest_presentCycle (r : Request) : (presentCycle r).acceptedRequest = some r := rfl

theorem length_blockProgram (b : DataBlock) : (blockProgram b).length = 32 := by
  rw [blockProgram, List.length_map, blockRequests, List.length_map, List.length_finRange]

theorem acceptedRequest_blockProgram (b : DataBlock) :
    (blockProgram b).filterMap HostCycle.acceptedRequest = blockRequests b := by
  rw [blockProgram, List.filterMap_map]
  exact List.filterMap_some

theorem rst_of_mem_blockProgram {b : DataBlock} {c : HostCycle} (h : c ∈ blockProgram b) : c.rst = false := by
  obtain ⟨r, -, rfl⟩ := List.mem_map.mp h
  rfl

theorem takes_of_mem_blockProgram {b : DataBlock} {c : HostCycle} (h : c ∈ blockProgram b) : c.takes = true := by
  obtain ⟨r, -, rfl⟩ := List.mem_map.mp h
  rfl

/-- A response is a point exactly where the distance is not zero (R97). -/
theorem respondTo_point (hw : Hardware) (r : Request) : (respondTo hw r).point = (r.dist != 0) := by
  by_cases h : r.dist = 0
  · rw [respondTo, project_zero _ _ _ h, h]; rfl
  · rw [respondTo, project_of_ne_zero _ _ _ h, bne_iff_ne.mpr h]

/-- Of a block's responses the frame gains those of the channels with a distance (R51). -/
theorem framePoints_channelResponses (hw : Hardware) (b : DataBlock) (is : List (Fin 32)) :
    framePoints (is.map fun i => respondTo hw (channelRequest b i)) =
      (is.filter fun i => distField b i != 0).map fun i => respondTo hw (channelRequest b i) := by
  have hpoint : Response.point ∘ (fun i => respondTo hw (channelRequest b i)) = fun i => distField b i != 0 :=
    funext fun i => respondTo_point hw (channelRequest b i)
  rw [framePoints, List.filter_map, hpoint]

/-- Settles O27: the block's cycles are a whole program of 32 requests without reset, each sampled. -/
theorem dataBlockGivesResponsesInChannelOrder : Obligations.DataBlockGivesResponsesInChannelOrder := by
  intro s b _ hs hq hhost
  have hreceived := received_iterate_edge_of_quiescent hs hq (hhost ▸ fun _ => rst_of_mem_blockProgram)
    (hhost ▸ fun _ => takes_of_mem_blockProgram)
  rw [hhost, length_blockProgram, acceptedRequest_blockProgram, blockRequests, List.map_map] at hreceived
  refine ⟨edge^[32 + s.hw.latency] s, reachesIn_iterate_edge _ s, hreceived, ?_⟩
  rw [hreceived, ← framePoints_channelResponses]
  exact List.filter_append _ _

end Sys2Proof.Machine
end

section
/-! PROOF. The request word and the response word (`30_encoding.md` R61 to R64) and the byte container of log 11. A word
is read as a number: fields are quotients and remainders of it, concatenation is a sum. -/

namespace Sys2Proof.Machine

/-- Concatenation as arithmetic: the low part below the high one. -/
theorem toNat_append_eq_add {m n : Nat} (x : BitVec m) (y : BitVec n) :
    (x ++ y).toNat = x.toNat * 2 ^ n + y.toNat := by
  rw [BitVec.toNat_append, ← Nat.shiftLeft_add_eq_or_of_lt y.isLt, Nat.shiftLeft_eq]

/-- Field extraction as arithmetic. -/
theorem extractLsb'_toNat_eq {n : Nat} (start len : Nat) (x : BitVec n) :
    (x.extractLsb' start len).toNat = x.toNat / 2 ^ start % 2 ^ len := by
  rw [BitVec.extractLsb'_toNat, Nat.shiftRight_eq_div_pow]

/-- The top bit of a word is set exactly where the quotient by its weight is 1. -/
theorem getLsbD_last_iff {n : Nat} (x : BitVec (n + 1)) : x.getLsbD n = true ↔ x.toNat / 2 ^ n = 1 := by
  have hquotient : x.toNat / 2 ^ n < 2 := Nat.div_lt_of_lt_mul (by simpa [Nat.pow_succ] using x.isLt)
  rw [← BitVec.testBit_toNat, Nat.testBit_eq_decide_div_mod_eq, decide_eq_true_eq, Nat.mod_eq_of_lt hquotient]

/-! ## The three fields of a request word -/

theorem wordCh_toNat (w : RequestWord) : (wordCh w).toNat = w.toNat / 2 ^ 32 := by
  have hw := w.isLt
  rw [wordCh, extractLsb'_toNat_eq]
  omega

theorem wordAz_toNat (w : RequestWord) : (wordAz w).toNat = w.toNat / 2 ^ 16 % 2 ^ 16 := extractLsb'_toNat_eq 16 16 w

theorem wordDist_toNat (w : RequestWord) : (wordDist w).toNat = w.toNat % 2 ^ 16 := by
  rw [wordDist, extractLsb'_toNat_eq, Nat.pow_zero, Nat.div_one]

theorem romIndex_toNat (ch : BitVec 5) : (romIndex ch).toNat = ch.toNat % 16 := by
  rw [romIndex, extractLsb'_toNat_eq, Nat.pow_zero, Nat.div_one]; rfl

theorem firingGroup_iff (ch : BitVec 5) : firingGroup ch = true ↔ ch.toNat / 2 ^ 4 = 1 := getLsbD_last_iff ch

theorem encode_project (ch : BitVec 5) (az dist : BitVec 16) : encode (.project ch az dist) = ch ++ az ++ dist := rfl

theorem encode_project_toNat (ch : BitVec 5) (az dist : BitVec 16) :
    (encode (.project ch az dist)).toNat = ch.toNat * 2 ^ 32 + az.toNat * 2 ^ 16 + dist.toNat := by
  rw [encode_project, toNat_append_eq_add, toNat_append_eq_add]
  omega

@[simp] theorem decode_encode (i : Instr) : decode (encode i) = i := by
  obtain ⟨ch, az, dist⟩ := i
  have hw := encode_project_toNat ch az dist
  have haz := az.isLt
  have hdist := dist.isLt
  rw [decode, Instr.project.injEq]
  refine ⟨BitVec.eq_of_toNat_eq ?_, BitVec.eq_of_toNat_eq ?_, BitVec.eq_of_toNat_eq ?_⟩
  · rw [wordCh_toNat]; omega
  · rw [wordAz_toNat]; omega
  · rw [wordDist_toNat]; omega

@[simp] theorem encode_decode (w : RequestWord) : encode (decode w) = w := by
  apply BitVec.eq_of_toNat_eq
  rw [decode, encode_project_toNat, wordCh_toNat, wordAz_toNat, wordDist_toNat]
  omega

/-- The pins of a cycle carry the word of PROJECT on their values (R61). -/
theorem decode_cycle_word (c : HostCycle) : decode c.word = .project c.reqCh c.reqAz c.reqDist :=
  decode_encode (.project c.reqCh c.reqAz c.reqDist)

/-- Settles O1: the word as a sum, and each field as a quotient or remainder of it. -/
theorem encodeIsPackedFields : Obligations.EncodeIsPackedFields := by
  intro ch az dist
  have hw := encode_project_toNat ch az dist
  have haz := az.isLt
  have hdist := dist.isLt
  refine ⟨hw, ?_, BitVec.eq_of_toNat_eq ?_, BitVec.eq_of_toNat_eq ?_, BitVec.eq_of_toNat_eq ?_⟩
  · rw [Bool.eq_iff_iff, getLsbD_last_iff (n := 36), firingGroup_iff]; omega
  · rw [extractLsb'_toNat_eq, romIndex_toNat]; omega
  · rw [extractLsb'_toNat_eq]; omega
  · rw [extractLsb'_toNat_eq]; omega

/-- Settles O2: the fields as quotients and remainders of the word. -/
theorem decodeIsFieldExtraction : Obligations.DecodeIsFieldExtraction := by
  intro w
  refine ⟨wordCh w, wordAz w, wordDist w, rfl, wordCh_toNat w, ?_, ?_, wordAz_toNat w, wordDist_toNat w⟩
  · rw [romIndex_toNat, wordCh_toNat]
  · rw [firingGroup_iff, wordCh_toNat, Nat.div_div_eq_div_mul, ← Nat.pow_add]

/-- Settles O3: `encode` is the inverse of `decode`. -/
theorem everyWordIsOneProject : Obligations.EveryWordIsOneProject := by
  refine ⟨fun w => ⟨_, _, _, rfl⟩, fun i => ⟨encode i, decode_encode i, ?_⟩⟩
  rintro w rfl
  exact (encode_decode w).symm

/-! ## Five bytes -/

theorem bytesValue_eq (b0 b1 b2 b3 b4 : Byte) :
    bytesValue b0 b1 b2 b3 b4 =
      b0.toNat + 2 ^ 8 * b1.toNat + 2 ^ 16 * b2.toNat + 2 ^ 24 * b3.toNat + 2 ^ 32 * b4.toNat := by
  unfold bytesValue
  simp only [toNat_append_eq_add]
  omega

theorem byteAt_toNat (v i : Nat) : (byteAt v i).toNat = v / 2 ^ (8 * i) % 2 ^ 8 := BitVec.toNat_ofNat _ _

theorem bytesValue_byteAt {v : Nat} (h : v < 2 ^ 40) :
    bytesValue (byteAt v 0) (byteAt v 1) (byteAt v 2) (byteAt v 3) (byteAt v 4) = v := by
  simp only [bytesValue_eq, byteAt_toNat]
  omega

theorem fiveBytes_bytesValue (b0 b1 b2 b3 b4 : Byte) :
    fiveBytes (bytesValue b0 b1 b2 b3 b4) = [b0, b1, b2, b3, b4] := by
  have hv := bytesValue_eq b0 b1 b2 b3 b4
  have hb0 := b0.isLt
  have hb1 := b1.isLt
  have hb2 := b2.isLt
  have hb3 := b3.isLt
  have hb4 := b4.isLt
  simp only [fiveBytes, List.cons.injEq, and_true]
  refine ⟨?_, ?_, ?_, ?_, ?_⟩ <;> apply BitVec.eq_of_toNat_eq <;> rw [byteAt_toNat] <;> omega

/-- Everything `decodeBytes` reads: the five bytes of a request word, and what follows them (R66, log 11). -/
theorem decodeBytes_eq_ok_iff (bs rest : List Byte) (i : Instr) :
    decodeBytes bs = .ok (i, rest) ↔ ∃ w : RequestWord, bs = fiveBytes w.toNat ++ rest ∧ decode w = i := by
  constructor
  · intro h
    unfold decodeBytes at h
    split at h
    · next b0 b1 b2 b3 b4 rest' =>
      split at h
      · next hlt =>
        obtain ⟨rfl, rfl⟩ : decode (BitVec.ofNat 37 (bytesValue b0 b1 b2 b3 b4)) = i ∧ rest' = rest := by
          simpa using h
        refine ⟨_, ?_, rfl⟩
        rw [BitVec.toNat_ofNat, Nat.mod_eq_of_lt hlt, fiveBytes_bytesValue]
        rfl
      · cases h
    · cases h
  · rintro ⟨w, rfl, rfl⟩
    have hw := w.isLt
    have hvalue := bytesValue_byteAt (v := w.toNat) (by omega)
    simp [fiveBytes, decodeBytes, hvalue, hw]

/-- Settles O4: a word and its operation determine each other, so the bytes read as `i` are those of `encode i`. -/
theorem decodeEncodeBytesAgree : Obligations.DecodeEncodeBytesAgree := by
  refine ⟨fun i rest => (decodeBytes_eq_ok_iff _ _ _).mpr ⟨encode i, rfl, decode_encode i⟩, fun bs rest i h => ?_⟩
  obtain ⟨w, rfl, rfl⟩ := (decodeBytes_eq_ok_iff _ _ _).mp h
  rw [encodeBytes, encode_decode]

/-- A word of the opcode table is read as its 37 bits where no bit above them is set. -/
theorem decodeTableWord_of_lt {v : Nat} (h : v < 2 ^ 37) :
    decodeTableWord 40 v = some (decode (BitVec.ofNat 37 v)) := by
  have hbytes : decodeBytes (fiveBytes v) = .ok (decode (BitVec.ofNat 37 v), []) :=
    (decodeBytes_eq_ok_iff _ _ _).mpr
      ⟨BitVec.ofNat 37 v, by rw [BitVec.toNat_ofNat, Nat.mod_eq_of_lt h, List.append_nil], rfl⟩
  have hv : v < 2 ^ 40 := by omega
  rw [decodeTableWord, Nat.mod_eq_of_lt hv, if_pos hv, hbytes]

/-- Settles O5: the four words are below 2^37, and their fields are those listed. -/
theorem specWordsDecode : Obligations.SpecWordsDecode := by
  refine ⟨?_, ?_, ?_, ?_⟩ <;> rw [decodeTableWord_of_lt (by decide)] <;> rfl

/-! ## The response word -/

theorem responseWord_toNat (r : Response) :
    (responseWord r).toNat = r.point.toNat * 2 ^ 96 + r.x.toNat * 2 ^ 64 + r.y.toNat * 2 ^ 32 + r.z.toNat := by
  unfold responseWord
  simp only [toNat_append_eq_add, BitVec.toNat_ofBool]
  omega

/-- Settles O54: the word as a sum, and each field as a quotient or remainder of it. -/
theorem responseWordIsPackedFields : Obligations.ResponseWordIsPackedFields := by
  intro r
  have hw := responseWord_toNat r
  have hx := r.x.isLt
  have hy := r.y.isLt
  have hz := r.z.isLt
  refine ⟨hw, ?_, BitVec.eq_of_toNat_eq ?_, BitVec.eq_of_toNat_eq ?_, BitVec.eq_of_toNat_eq ?_⟩
  · rw [Bool.eq_iff_iff, getLsbD_last_iff (n := 96), ← Bool.toNat_eq_one]; omega
  · rw [extractLsb'_toNat_eq]; omega
  · rw [extractLsb'_toNat_eq]; omega
  · rw [extractLsb'_toNat_eq]; omega

end Sys2Proof.Machine
end

section
/-! PROOF. From the pins to the operation a step runs (`30_encoding.md` R60), and the idle cycle (R67). -/

namespace Sys2Proof.Machine

/-! ## An accepted request -/

theorem HostCycle.accepted_iff (c : HostCycle) : c.accepted = true ↔ c.reqValid = true ∧ c.rst = false := by
  rw [HostCycle.accepted, Bool.and_eq_true, Bool.not_eq_true']

theorem fetch_of_accepted {s : State} (h : (currentCycle s).accepted = true) :
    fetch s = some (.project (currentCycle s).reqCh (currentCycle s).reqAz (currentCycle s).reqDist) := by
  rw [fetch, if_pos h, decode_cycle_word]

theorem fetch_of_not_accepted {s : State} (h : ¬ (currentCycle s).accepted = true) : fetch s = none := if_neg h

theorem step_of_fetch_some {s : State} {i : Instr} (h : fetch s = some i) : step s = exec i s := by rw [step, h]

theorem step_of_fetch_none {s : State} (h : fetch s = none) : step s = .next (quietEdge s) := by rw [step, h]

/-- Settles O6, from what the fetch answers. -/
theorem stepRunsAcceptedRequest : Obligations.StepRunsAcceptedRequest := by
  intro s
  rw [← HostCycle.accepted_iff]
  exact ⟨fun h => step_of_fetch_some (fetch_of_accepted h), fun h => step_of_fetch_none (fetch_of_not_accepted h)⟩

theorem currentCycle_withFetchWord_encode (s : State) (i : Instr) :
    currentCycle (s.withFetchWord 40 (encode i).toNat) = presentCycle (requestOf i) := by
  have hw : (encode i).toNat % 2 ^ 40 = (encode i).toNat :=
    Nat.mod_eq_of_lt (Nat.lt_of_lt_of_le (encode i).isLt (by decide))
  show presentCycle (requestOf (decode (BitVec.ofNat 37 ((encode i).toNat % 2 ^ 40)))) = _
  rw [hw, BitVec.ofNat_toNat, BitVec.setWidth_eq, decode_encode]

/-- Settles O7: the word on the pins is the encoding of `i`, accepted with `rst = 0`. -/
theorem stepRunsWithFetchWord : Obligations.StepRunsWithFetchWord := by
  intro s i
  have hcycle := currentCycle_withFetchWord_encode s i
  have haccepted : (currentCycle (s.withFetchWord 40 (encode i).toNat)).accepted = true := by rw [hcycle]; rfl
  apply step_of_fetch_some
  rw [fetch_of_accepted haccepted, hcycle]
  rfl

/-! ## An idle cycle -/

theorem acceptedRequest_of_not_valid {c : HostCycle} (h : c.reqValid = false) : c.acceptedRequest = none :=
  acceptedRequest_eq_none (by rw [HostCycle.accepted, h]; rfl)

theorem loadResponse_withHost (s : State) (host : List HostCycle) (done : Option Request) :
    loadResponse { s with host := host } done = { loadResponse s done with host := host } := by
  cases done <;> rfl

theorem portWith_withHost (s : State) (host : List HostCycle) (req : Option Request) :
    portWith { s with host := host } req = portWith s req := by
  cases req <;> rfl

/-- What the registers hold after an edge does not depend on what the host does, but for the accepted request. -/
theorem registersAfter_withHost (s : State) (host : List HostCycle) (req : Option Request) :
    registersAfter { s with host := host } req = { registersAfter s req with host := host } := by
  have hsettled : ({ s with host := host } : State).settled = s.settled := rfl
  rw [registersAfter, registersAfter, hsettled, loadResponse_withHost]
  split <;> rfl

/-- What the host has received after a cycle, by whether it samples port `p` in it (R138). -/
def receivedIf (takes : Bool) (s : State) (p : Port) : List Response :=
  if p.valid && takes then s.received ++ [p.response] else s.received

theorem receivedAfter_eq (s : State) (p : Port) : receivedAfter s p = receivedIf (currentCycle s).takes s p := rfl

/-- An edge without reset, of the host's present cycle: the accepted request and the sampling are all it reads. -/
theorem clockEdge_cons (s : State) (c : HostCycle) (rest : List HostCycle) (req : Option Request) :
    clockEdge { s with host := c :: rest } req =
      { registersAfter s req with
        host := rest, received := receivedIf c.takes s (portWith s req), edges := s.edges + 1 } := by
  rw [clockEdge, portWith_withHost, registersAfter_withHost]
  simp [hostAfter, receivedAfter_eq, receivedIf, currentCycle]

/-- A reset edge, of the host's present cycle: the sampling is all it reads. -/
theorem resetEdge_cons (s : State) (c : HostCycle) (rest : List HostCycle) :
    resetEdge { s with host := c :: rest } =
      { resetEdge s with
        host := rest, received := receivedIf c.takes s (portWith s none), edges := s.edges + 1 } := by
  rw [resetEdge, portWith_withHost, loadResponse_withHost]
  rfl

/-- In a cycle with `req_valid = 0` a step reads `rst` and the sampling, and no other pin (R67). -/
theorem step_cons_of_not_valid (s : State) {c : HostCycle} (rest : List HostCycle) (h : c.reqValid = false) :
    step { s with host := c :: rest } = .next
      { (if c.rst then resetEdge s else registersAfter s none) with
        host := rest, received := receivedIf c.takes s (portWith s none), edges := s.edges + 1 } := by
  rw [step_eq, show currentCycle { s with host := c :: rest } = c from rfl, acceptedRequest_of_not_valid h,
    clockEdge_cons, resetEdge_cons]
  split <;> rfl

/-- Settles O10: `step_cons_of_not_valid` names all that the step reads of the cycle. -/
theorem idlePinsAreIgnored : Obligations.IdlePinsAreIgnored := by
  intro s c c' rest hc hc' hrst htakes
  constructor
  · rw [step_cons_of_not_valid s rest hc, step_cons_of_not_valid s rest hc', hrst, htakes]
  · show portWith { s with host := c :: rest } c.acceptedRequest
      = portWith { s with host := c' :: rest } c'.acceptedRequest
    rw [acceptedRequest_of_not_valid hc, acceptedRequest_of_not_valid hc']
    exact (portWith_withHost s _ none).trans (portWith_withHost s _ none).symm

end Sys2Proof.Machine
end

section
/-! PROOF. The assembler's statements (`30_encoding.md` R68 to R70): their cycles, their request words, and what is
refused. -/

namespace Sys2Proof.Machine

theorem inRange_of_lt {limit v : Nat} (h : v < limit) : inRange limit v = .ok v := if_pos h

theorem inRange_of_le {limit v : Nat} (h : limit ≤ v) : inRange limit v = .error (.operandOutOfRange v) :=
  if_neg (Nat.not_lt.mpr h)

/-! ## One PROJECT -/

theorem Stmt.project_wf_iff {ch az dist : Nat} :
    (Stmt.project ch az dist).wf = true ↔ ch < 32 ∧ az < 65536 ∧ dist < 65536 := by
  simp [Stmt.wf, and_assoc]

/-- The cycle that presents the operands of a PROJECT statement (R68). -/
def projectCycle (ch az dist : Nat) : HostCycle :=
  presentCycle { ch := BitVec.ofNat 5 ch, az := BitVec.ofNat 16 az, dist := BitVec.ofNat 16 dist }

theorem projectCycle_accepted (ch az dist : Nat) : (projectCycle ch az dist).accepted = true := rfl

theorem projectCycle_word_toNat {ch az dist : Nat} (hch : ch < 32) (haz : az < 65536) (hdist : dist < 65536) :
    (projectCycle ch az dist).word.toNat = ch * 2 ^ 32 + az * 2 ^ 16 + dist := by
  have hword := encode_project_toNat (BitVec.ofNat 5 ch) (BitVec.ofNat 16 az) (BitVec.ofNat 16 dist)
  rw [BitVec.toNat_ofNat, BitVec.toNat_ofNat, BitVec.toNat_ofNat, Nat.mod_eq_of_lt hch, Nat.mod_eq_of_lt haz,
    Nat.mod_eq_of_lt hdist] at hword
  exact hword

theorem assembleProject_of_lt {ch az dist : Nat} (hch : ch < 32) (haz : az < 65536) (hdist : dist < 65536) :
    assembleProject ch az dist = .ok (projectCycle ch az dist) := by
  rw [assembleProject, inRange_of_lt hch, inRange_of_lt haz, inRange_of_lt hdist]
  rfl

/-- A refused PROJECT names its first operand that is out of range (R68). -/
theorem assembleProject_of_not_lt {ch az dist : Nat} (h : ¬ (ch < 32 ∧ az < 65536 ∧ dist < 65536)) :
    ∃ v, assembleProject ch az dist = .error (.operandOutOfRange v) ∧
      (v = ch ∧ 32 ≤ ch ∨ v = az ∧ 65536 ≤ az ∨ v = dist ∧ 65536 ≤ dist) := by
  rcases Nat.lt_or_ge ch 32 with hch | hch
  · rcases Nat.lt_or_ge az 65536 with haz | haz
    · have hdist : 65536 ≤ dist := by omega
      refine ⟨dist, ?_, .inr (.inr ⟨rfl, hdist⟩)⟩
      rw [assembleProject, inRange_of_lt hch, inRange_of_lt haz, inRange_of_le hdist]
    · refine ⟨az, ?_, .inr (.inl ⟨rfl, haz⟩)⟩
      rw [assembleProject, inRange_of_lt hch, inRange_of_le haz]
  · refine ⟨ch, ?_, .inl ⟨rfl, hch⟩⟩
    rw [assembleProject, inRange_of_le hch]

theorem assembleProjects_cons (ch az dist : Nat) (rest : List Stmt) :
    assembleProjects (.project ch az dist :: rest) =
      (do
        let c ← assembleProject ch az dist
        let cs ← assembleProjects rest
        .ok (c :: cs)) := by
  rw [assembleProjects]
  cases assembleProject ch az dist <;> cases assembleProjects rest <;> rfl

theorem assembleStmt_project (ch az dist : Nat) :
    assembleStmt (.project ch az dist) = (assembleProject ch az dist).map fun c => [c] := by
  rw [assembleStmt, assembleProjects_cons]
  cases assembleProject ch az dist <;> rfl

theorem assembleStmt_project_of_lt {ch az dist : Nat} (hch : ch < 32) (haz : az < 65536) (hdist : dist < 65536) :
    assembleStmt (.project ch az dist) = .ok [projectCycle ch az dist] := by
  rw [assembleStmt_project, assembleProject_of_lt hch haz hdist]
  rfl

/-- Settles O50: the cycle is `projectCycle`; a refusal comes from the first range check that fails. -/
theorem assembledProjectPresentsItsWord : Obligations.AssembledProjectPresentsItsWord := by
  intro ch az dist
  constructor
  · intro hwf
    obtain ⟨hch, haz, hdist⟩ := Stmt.project_wf_iff.mp hwf
    refine ⟨projectCycle ch az dist, assembleStmt_project_of_lt hch haz hdist, projectCycle_accepted ch az dist, ?_⟩
    rw [← projectCycle_word_toNat hch haz hdist]
    rfl
  · intro hwf
    have hrange : ¬ (ch < 32 ∧ az < 65536 ∧ dist < 65536) := by
      rw [← Stmt.project_wf_iff, hwf]
      exact Bool.false_ne_true
    obtain ⟨v, herr, hv⟩ := assembleProject_of_not_lt hrange
    refine ⟨v, by rw [assembleStmt_project, herr]; rfl, ?_⟩
    exact hv.imp And.left (Or.imp And.left And.left)

/-! ## PROJECT.BLOCK -/

theorem Stmt.block_wf_iff {az : Nat} {dists : List Nat} :
    (Stmt.block az dists).wf = true ↔ az < 65536 ∧ dists.length = 32 ∧ ∀ d ∈ dists, d < 65536 := by
  simp [Stmt.wf, and_assoc]

/-- The cycles of an expansion whose operands are in range: one per distance, in channel order (R69). -/
theorem assembleProjects_expandBlockFrom {az ch : Nat} {dists : List Nat} (hch : ch + dists.length ≤ 32)
    (haz : az < 65536) (hdists : ∀ d ∈ dists, d < 65536) :
    assembleProjects (expandBlockFrom az ch dists) = .ok (dists.mapIdx fun i d => projectCycle (ch + i) az d) := by
  induction dists generalizing ch with
  | nil => rfl
  | cons d ds ih =>
    rw [List.length_cons] at hch
    obtain ⟨hd, hds⟩ := List.forall_mem_cons.mp hdists
    have hrest := ih (ch := ch + 1) (by omega) hds
    have hindex : ∀ i, ch + 1 + i = ch + (i + 1) := fun i => by omega
    have hch' : ch < 32 := by omega
    rw [expandBlockFrom, assembleProjects_cons, assembleProject_of_lt hch' haz hd, hrest, List.mapIdx_cons]
    simp only [hindex]
    rfl

/-- An expansion with an operand out of range is refused, and the refusal names one (R68); no channel is out of
range. -/
theorem assembleProjects_expandBlockFrom_error {az ch : Nat} {dists : List Nat} (hch : ch + dists.length ≤ 32)
    (hrange : dists ≠ [] ∧ 65536 ≤ az ∨ ∃ d ∈ dists, 65536 ≤ d) :
    ∃ v, assembleProjects (expandBlockFrom az ch dists) = .error (.operandOutOfRange v) ∧
      65536 ≤ v ∧ (v = az ∨ v ∈ dists) := by
  induction dists generalizing ch with
  | nil => simp at hrange
  | cons d ds ih =>
    rw [List.length_cons] at hch
    rw [expandBlockFrom, assembleProjects_cons]
    by_cases hok : ch < 32 ∧ az < 65536 ∧ d < 65536
    · obtain ⟨hch', haz, hd⟩ := hok
      have hrest : ∃ d ∈ ds, 65536 ≤ d := by
        rcases hrange with ⟨-, h⟩ | ⟨e, he, hle⟩
        · omega
        · rcases List.mem_cons.mp he with rfl | hmem
          · omega
          · exact ⟨e, hmem, hle⟩
      obtain ⟨v, herr, hle, hv⟩ := ih (ch := ch + 1) (by omega) (.inr hrest)
      rw [assembleProject_of_lt hch' haz hd, herr]
      exact ⟨v, rfl, hle, hv.imp id (List.mem_cons_of_mem d)⟩
    · obtain ⟨v, herr, hv⟩ := assembleProject_of_not_lt hok
      rw [herr]
      refine ⟨v, rfl, ?_⟩
      rcases hv with ⟨-, h⟩ | ⟨rfl, h⟩ | ⟨rfl, h⟩
      · omega
      · exact ⟨h, .inl rfl⟩
      · exact ⟨h, .inr List.mem_cons_self⟩

theorem assembleStmt_block_of_length {az : Nat} {dists : List Nat} (h : dists.length = 32) :
    assembleStmt (.block az dists) = assembleProjects (expandBlockFrom az 0 dists) := if_pos h

/-- Settles O52, by the two inductions on the distances above. -/
theorem blockExpandsInChannelOrder : Obligations.BlockExpandsInChannelOrder := by
  intro az dists
  refine ⟨fun h => if_neg h, fun hwf => ?_, fun hlen hwf => ?_⟩
  · obtain ⟨haz, hlen, hdists⟩ := Stmt.block_wf_iff.mp hwf
    rw [assembleStmt_block_of_length hlen, assembleProjects_expandBlockFrom (by omega) haz hdists]
    refine ⟨_, rfl, by rw [List.length_mapIdx, hlen], fun i hi => ?_⟩
    have hi' : i < dists.length := by omega
    rw [List.getD_eq_getElem _ _ hi', assembleStmt_project_of_lt hi haz (hdists _ (List.getElem_mem hi')), cycleAt,
      List.getD_eq_getElem _ _ (by rwa [List.length_mapIdx]), List.getElem_mapIdx, Nat.zero_add]
  · rw [assembleStmt_block_of_length hlen]
    apply assembleProjects_expandBlockFrom_error (by omega)
    by_contra hrange
    have hall : (Stmt.block az dists).wf = true := by
      rw [Stmt.block_wf_iff]
      have hne : dists ≠ [] := List.ne_nil_of_length_pos (by omega)
      push Not at hrange
      exact ⟨hrange.1 hne, hlen, hrange.2⟩
    rw [hwf] at hall
    exact Bool.false_ne_true hall

/-! ## IDLE -/

theorem requestWords_replicate_idleCycle (n : Nat) : requestWords (List.replicate n idleCycle) = [] := by
  rw [requestWords, List.filter_replicate_of_neg (by decide), List.map_nil]

/-- Settles O53: idle cycles present nothing. -/
theorem idleAssemblesToNoRequest : Obligations.IdleAssemblesToNoRequest := by
  refine ⟨fun n hn => ⟨List.replicate n idleCycle, if_neg (by omega), List.length_replicate, fun c hc => ?_,
    requestWords_replicate_idleCycle n⟩, rfl⟩
  rw [List.eq_of_mem_replicate hc]
  rfl

end Sys2Proof.Machine
end

section
/-! PROOF. A program text, line by line (`30_encoding.md` R68): how a run of characters is cut at a separator, and how
the lines and the statements of a program are read one after another. -/

namespace Sys2Proof.Machine

/-! ## Cutting at a separator -/

theorem splitAtChar_of_not_mem {sep : Char} {p : List Char} (h : sep ∉ p) : splitAtChar sep p = [p] := by
  induction p with
  | nil => rfl
  | cons c cs ih =>
    obtain ⟨hc, hcs⟩ := List.ne_and_not_mem_of_not_mem_cons h
    simp [splitAtChar, ih hcs, Ne.symm hc]

theorem splitAtChar_append_cons {sep : Char} {p : List Char} (h : sep ∉ p) (cs : List Char) :
    splitAtChar sep (p ++ sep :: cs) = p :: splitAtChar sep cs := by
  induction p with
  | nil => simp [splitAtChar]
  | cons c p ih =>
    obtain ⟨hc, hp⟩ := List.ne_and_not_mem_of_not_mem_cons h
    simp [splitAtChar, ih hp, Ne.symm hc]

theorem joinLines_cons_cons (l l' : List Char) (ls : List (List Char)) :
    joinLines (l :: l' :: ls) = l ++ '\n' :: joinLines (l' :: ls) := by
  rw [joinLines, List.append_assoc]
  · rfl
  · exact List.cons_ne_nil l' ls

theorem splitAtChar_joinLines {lines : List (List Char)} (hne : lines ≠ []) (h : ∀ l ∈ lines, '\n' ∉ l) :
    splitAtChar '\n' (joinLines lines) = lines := by
  induction lines with
  | nil => exact absurd rfl hne
  | cons l ls ih =>
    obtain ⟨hl, hls⟩ := List.forall_mem_cons.mp h
    cases ls with
    | nil => exact splitAtChar_of_not_mem hl
    | cons l' ls => rw [joinLines_cons_cons, splitAtChar_append_cons hl, ih (List.cons_ne_nil _ _) hls]

/-! ## One refusal refuses the whole -/

/-- A list that is read one element after another is refused where one of its elements is. -/
theorem error_of_mem {α β γ ε : Type} {g : α → Except ε β} {f : List α → Except ε γ} {k : β → γ → γ}
    (hcons : ∀ a as, f (a :: as) =
      (do
        let b ← g a
        let c ← f as
        .ok (k b c)))
    {l : List α} {a : α} {e : ε} (hmem : a ∈ l) (ha : g a = .error e) : ∃ e, f l = .error e := by
  induction l with
  | nil => cases hmem
  | cons a' l ih =>
    rw [hcons]
    rcases List.mem_cons.mp hmem with rfl | hmem
    · exact ⟨e, by rw [ha]; rfl⟩
    · obtain ⟨e', hrest⟩ := ih hmem
      rw [hrest]
      cases g a' with
      | error e => exact ⟨e, rfl⟩
      | ok b => exact ⟨e', rfl⟩

/-! ## The lines of a text -/

theorem parseLines_cons (l : List Char) (ls : List (List Char)) :
    parseLines (l :: ls) =
      (do
        let st ← parseLine l
        let sts ← parseLines ls
        .ok (st.toList ++ sts)) := by
  rw [parseLines]
  rcases parseLine l with e | _ | st <;> rcases parseLines ls with e' | sts <;> rfl

/-- A text is refused as a whole, or is the program of the statements of its lines; no line at all reads as one empty
line, which holds no statement. -/
theorem assembleText_joinLines {lines : List (List Char)} (h : ∀ l ∈ lines, '\n' ∉ l) :
    assembleText (joinLines lines) = parseLines lines >>= assembleProgram := by
  cases lines with
  | nil => rfl
  | cons l ls =>
    rw [assembleText, splitAtChar_joinLines (List.cons_ne_nil l ls) h]
    cases parseLines (l :: ls) <;> rfl

theorem parseLines_of_forall₂ {lines : List (List Char)} {sts : List (Option Stmt)}
    (h : List.Forall₂ (fun l st => parseLine l = .ok st) lines sts) : parseLines lines = .ok (sts.filterMap id) := by
  induction h with
  | nil => rfl
  | @cons l st ls sts hl _ ih =>
    rw [parseLines_cons, hl, ih]
    cases st <;> rfl

/-! ## The statements of a program -/

theorem assembleProgram_cons (st : Stmt) (rest : List Stmt) :
    assembleProgram (st :: rest) =
      (do
        let c ← assembleStmt st
        let cs ← assembleProgram rest
        .ok (c ++ cs)) := by
  rw [assembleProgram]
  cases assembleStmt st <;> cases assembleProgram rest <;> rfl

theorem assembleProgram_of_forall₂ {sts : List Stmt} {css : List (List HostCycle)}
    (h : List.Forall₂ (fun st cs => assembleStmt st = .ok cs) sts css) : assembleProgram sts = .ok css.flatten := by
  induction h with
  | nil => rfl
  | cons hst _ ih =>
    rw [assembleProgram_cons, hst, ih]
    rfl

/-- Settles O57, by inductions on the lines and on the statements. -/
theorem programTextIsItsLines : Obligations.ProgramTextIsItsLines := by
  refine ⟨fun lines sts hlines hsts => ?_, fun lines hlines ⟨l, hmem, e, hl⟩ => ?_, fun sts css h =>
    assembleProgram_of_forall₂ h, fun sts ⟨st, hmem, e, hst⟩ => error_of_mem assembleProgram_cons hmem hst⟩
  · rw [assembleText_joinLines hlines, parseLines_of_forall₂ hsts]
    rfl
  · obtain ⟨e', herr⟩ := error_of_mem parseLines_cons hmem hl
    exact ⟨e', by rw [assembleText_joinLines hlines, herr]; rfl⟩

end Sys2Proof.Machine
end

section
/-! PROOF. A line of a program text (`30_encoding.md` R68 to R70, log 16): literals, operand lists and blanks, and the
statement that a laid-out line is read as. -/

namespace Sys2Proof.Machine

/-! ## Characters -/

/-- A character of a word or of a literal: no blank and no separator. -/
abbrev IsPlain (c : Char) : Prop := isBlank c = false ∧ c ≠ ',' ∧ c ≠ ';'

/-- Every character is plain. -/
abbrev AllPlain (cs : List Char) : Prop := ∀ c ∈ cs, IsPlain c

theorem AllBlank.not_mem {cs : List Char} {c : Char} (h : AllBlank cs) (hc : isBlank c = false) : c ∉ cs := by
  intro hmem
  rw [List.all_eq_true.mp h c hmem] at hc
  cases hc

theorem AllPlain.comma_not_mem {cs : List Char} (h : AllPlain cs) : ',' ∉ cs := by
  intro hmem
  obtain ⟨-, hcomma, -⟩ := h _ hmem
  exact hcomma rfl

theorem AllPlain.semicolon_not_mem {cs : List Char} (h : AllPlain cs) : ';' ∉ cs := by
  intro hmem
  obtain ⟨-, -, hsemicolon⟩ := h _ hmem
  exact hsemicolon rfl

/-! ## Literals -/

/-- All the digits of both bases, letters capital or small: plain characters, none the `x` of `0x`, each read back
as its value. -/
theorem digitChar_read {d : Nat × Bool} (h : d.1 < 16) :
    IsPlain (digitChar d) ∧ digitChar d ≠ 'x' ∧ digitValue 16 (digitChar d) = some d.1 ∧
    (d.1 < 10 → digitValue 10 (digitChar d) = some d.1) := by
  have hall : ∀ (n : Fin 16) (small : Bool),
      IsPlain (digitChar (n.val, small)) ∧ digitChar (n.val, small) ≠ 'x' ∧
      digitValue 16 (digitChar (n.val, small)) = some n.val ∧
      (n.val < 10 → digitValue 10 (digitChar (n.val, small)) = some n.val) := by decide
  exact hall ⟨d.1, h⟩ d.2

theorem Literal.base_le (l : Literal) : l.base ≤ 16 := by unfold Literal.base; split <;> decide

theorem Literal.Wf.digit_lt {l : Literal} (h : l.Wf) {d : Nat × Bool} (hd : d ∈ l.digits) : d.1 < 16 :=
  Nat.lt_of_lt_of_le (h.2 d hd) l.base_le

theorem digitValue_digitChar (l : Literal) {d : Nat × Bool} (h : d.1 < l.base) :
    digitValue l.base (digitChar d) = some d.1 := by
  obtain ⟨-, -, hhex, hdecimal⟩ := digitChar_read (Nat.lt_of_lt_of_le h l.base_le)
  unfold Literal.base at h ⊢
  split at h
  · next hex => rwa [if_pos hex]
  · next hex => rw [if_neg hex]; exact hdecimal h

theorem digitsValue_map_digitChar (l : Literal) (acc : Nat) {ds : List (Nat × Bool)} (h : ∀ d ∈ ds, d.1 < l.base) :
    digitsValue l.base acc (ds.map digitChar) = some (ds.foldl (fun acc d => acc * l.base + d.1) acc) := by
  induction ds generalizing acc with
  | nil => rfl
  | cons d ds ih =>
    obtain ⟨hd, hds⟩ := List.forall_mem_cons.mp h
    rw [List.map_cons, digitsValue, digitValue_digitChar l hd]
    exact ih _ hds

theorem digitsValue_text {l : Literal} (h : l.Wf) : digitsValue l.base 0 (l.digits.map digitChar) = some l.value :=
  digitsValue_map_digitChar l 0 h.2

theorem parseLiteral_hex {cs : List Char} (h : cs ≠ []) : parseLiteral ('0' :: 'x' :: cs) = digitsValue 16 0 cs := by
  cases cs with
  | nil => exact absurd rfl h
  | cons c cs => rfl

theorem parseLiteral_decimal {cs : List Char} (h : cs ≠ []) (hx : 'x' ∉ cs) :
    parseLiteral cs = digitsValue 10 0 cs := by
  unfold parseLiteral
  split
  · exact absurd rfl h
  · simp at hx
  · simp at hx
  · rfl

theorem parseLiteral_text {l : Literal} (h : l.Wf) : parseLiteral l.text = some l.value := by
  have hvalue := digitsValue_text h
  have hne : l.digits.map digitChar ≠ [] := mt List.map_eq_nil_iff.mp h.1
  have hx : 'x' ∉ l.digits.map digitChar := by
    intro hx
    obtain ⟨d, hd, hdx⟩ := List.mem_map.mp hx
    obtain ⟨-, hne_x, -⟩ := digitChar_read (h.digit_lt hd)
    exact hne_x hdx
  obtain ⟨hex, digits⟩ := l
  cases hex with
  | true => exact (parseLiteral_hex hne).trans hvalue
  | false => exact (parseLiteral_decimal hne hx).trans hvalue

theorem Literal.text_allPlain {l : Literal} (h : l.Wf) : AllPlain l.text := by
  intro c hc
  rcases List.mem_append.mp hc with hbase | hdigit
  · have hplain : AllPlain ['0', 'x'] := by simp [AllPlain, IsPlain, isBlank]
    split at hbase
    · exact hplain c hbase
    · cases hbase
  · obtain ⟨d, hd, rfl⟩ := List.mem_map.mp hdigit
    exact (digitChar_read (h.digit_lt hd)).1

theorem Literal.text_ne_nil {l : Literal} (h : l.Wf) : l.text ≠ [] :=
  List.append_ne_nil_of_right_ne_nil _ (mt List.map_eq_nil_iff.mp h.1)

/-! ## Blanks at the ends -/

/-- Neither the first nor the last character is a blank. -/
abbrev NoBlankEnds (cs : List Char) : Prop :=
  (∀ c ∈ cs.head?, isBlank c = false) ∧ (∀ c ∈ cs.getLast?, isBlank c = false)

theorem AllPlain.noBlankEnds {cs : List Char} (h : AllPlain cs) : NoBlankEnds cs :=
  ⟨fun c hc => (h c (List.mem_of_mem_head? hc)).1, fun c hc => (h c (List.mem_of_mem_getLast? hc)).1⟩

theorem dropWhile_isBlank_of_head? {cs : List Char} (h : ∀ c ∈ cs.head?, isBlank c = false) :
    cs.dropWhile isBlank = cs := by
  cases cs with
  | nil => rfl
  | cons c cs => simp [h c rfl]

theorem trimBlanks_append {lead core trail : List Char} (hlead : AllBlank lead) (htrail : AllBlank trail)
    (hcore : NoBlankEnds core) : trimBlanks (lead ++ core ++ trail) = core := by
  obtain ⟨hhead, hlast⟩ := hcore
  have hfront : (lead ++ core ++ trail).dropWhile isBlank = (core ++ trail).dropWhile isBlank := by
    rw [List.append_assoc, List.dropWhile_append_of_pos (List.all_eq_true.mp hlead)]
  have hback : ((core ++ trail).reverse.dropWhile isBlank).reverse = core := by
    rw [List.reverse_append, List.dropWhile_append_of_pos (by simpa using htrail),
      dropWhile_isBlank_of_head? (by simpa using hlast), List.reverse_reverse]
  rw [trimBlanks, hfront]
  cases core with
  | nil =>
    rw [List.nil_append, List.dropWhile_eq_nil_iff.mpr (List.all_eq_true.mp htrail)]
    rfl
  | cons c cs => rw [dropWhile_isBlank_of_head? (cs := c :: cs ++ trail) hhead, hback]

/-! ## Operand lists -/

theorem operandsText_cons_cons (before after : List Char) (l l' : Literal) (ls : List Literal) :
    operandsText before after (l :: l' :: ls) =
      l.text ++ before ++ ',' :: (after ++ operandsText before after (l' :: ls)) := by
  rw [operandsText, List.append_assoc, List.append_assoc]
  · simp
  · exact List.cons_ne_nil l' ls

/-- The pieces between the commas are the literals, each with blanks about it. -/
theorem allPresent_pieces {before after lead : List Char} {ops : List Literal} (hbefore : AllBlank before)
    (hafter : AllBlank after) (hlead : AllBlank lead) (hne : ops ≠ []) (hops : ∀ l ∈ ops, l.Wf) :
    allPresent ((splitAtChar ',' (lead ++ operandsText before after ops)).map fun p => parseLiteral (trimBlanks p)) =
      some (ops.map (·.value)) := by
  induction ops generalizing lead with
  | nil => exact absurd rfl hne
  | cons l ls ih =>
    obtain ⟨hl, hls⟩ := List.forall_mem_cons.mp hops
    have hplain := Literal.text_allPlain hl
    have hpiece : ∀ {trail : List Char}, AllBlank trail →
        ',' ∉ lead ++ l.text ++ trail ∧ parseLiteral (trimBlanks (lead ++ l.text ++ trail)) = some l.value := by
      intro trail htrail
      rw [trimBlanks_append hlead htrail hplain.noBlankEnds, List.mem_append, List.mem_append]
      refine ⟨?_, parseLiteral_text hl⟩
      rintro ((h | h) | h)
      · exact hlead.not_mem (by decide) h
      · exact hplain.comma_not_mem h
      · exact htrail.not_mem (by decide) h
    cases ls with
    | nil =>
      obtain ⟨hcomma, hparse⟩ := hpiece (trail := []) rfl
      rw [List.append_nil] at hcomma hparse
      rw [operandsText, splitAtChar_of_not_mem hcomma, List.map_singleton, hparse]
      rfl
    | cons l' ls =>
      obtain ⟨hcomma, hparse⟩ := hpiece hbefore
      rw [operandsText_cons_cons, ← List.append_assoc, ← List.append_assoc, splitAtChar_append_cons hcomma,
        List.map_cons, hparse, allPresent, ih hafter (List.cons_ne_nil l' ls) hls]
      rfl

theorem operandsText_ne_nil {before after : List Char} {l : Literal} {ls : List Literal} (hl : l.Wf) :
    operandsText before after (l :: ls) ≠ [] := by
  cases ls with
  | nil => exact Literal.text_ne_nil hl
  | cons l' ls =>
    rw [operandsText_cons_cons]
    simp

theorem parseOperands_operandsText {before after : List Char} {ops : List Literal} (hbefore : AllBlank before)
    (hafter : AllBlank after) (hops : ∀ l ∈ ops, l.Wf) :
    parseOperands (operandsText before after ops) = some (ops.map (·.value)) := by
  cases ops with
  | nil => rfl
  | cons l ls =>
    have hne := operandsText_ne_nil (before := before) (after := after) (ls := ls) (hops l List.mem_cons_self)
    rw [parseOperands, if_neg (by rwa [List.isEmpty_iff])]
    exact allPresent_pieces (lead := []) hbefore hafter rfl (List.cons_ne_nil l ls) hops

/-- An operand list begins and ends with a literal. -/
theorem operandsText_noBlankEnds (before after : List Char) {ops : List Literal} (hops : ∀ l ∈ ops, l.Wf) :
    NoBlankEnds (operandsText before after ops) := by
  induction ops with
  | nil => exact ⟨by simp [operandsText], by simp [operandsText]⟩
  | cons l ls ih =>
    obtain ⟨hl, hls⟩ := List.forall_mem_cons.mp hops
    obtain ⟨hhead, hlast⟩ := (Literal.text_allPlain hl).noBlankEnds
    cases ls with
    | nil => exact ⟨hhead, hlast⟩
    | cons l' ls =>
      rw [operandsText_cons_cons]
      constructor
      · rwa [List.append_assoc, List.head?_append_of_ne_nil _ (Literal.text_ne_nil hl)]
      · rw [← List.cons_append, ← List.append_assoc,
          List.getLast?_append_of_ne_nil _ (operandsText_ne_nil (hls l' List.mem_cons_self))]
        exact (ih hls).2

theorem semicolon_not_mem_operandsText {before after : List Char} {ops : List Literal} (hbefore : AllBlank before)
    (hafter : AllBlank after) (hops : ∀ l ∈ ops, l.Wf) : ';' ∉ operandsText before after ops := by
  induction ops with
  | nil => exact List.not_mem_nil
  | cons l ls ih =>
    obtain ⟨hl, hls⟩ := List.forall_mem_cons.mp hops
    have htext := (Literal.text_allPlain hl).semicolon_not_mem
    cases ls with
    | nil => exact htext
    | cons l' ls =>
      have hb := hbefore.not_mem (c := ';') (by decide)
      have ha := hafter.not_mem (c := ';') (by decide)
      simp [operandsText_cons_cons, htext, hb, ha, ih hls]

/-! ## A line -/

/-- What stands before the line's end is read; a comment is not (R68). -/
theorem takeWhile_append_lineEnd {body lineEnd : List Char} (hbody : ';' ∉ body) (hend : LineEnd lineEnd) :
    (body ++ lineEnd).takeWhile (· != ';') = body := by
  rw [List.takeWhile_append_of_pos fun c hc => bne_iff_ne.mpr (ne_of_mem_of_not_mem hc hbody)]
  rcases hend with rfl | ⟨comment, rfl⟩ <;> simp

/-- A laid-out line without its comment and the blanks at its ends. -/
theorem trimBlanks_takeWhile_line {lead core trail lineEnd : List Char} (hlead : AllBlank lead)
    (htrail : AllBlank trail) (hend : LineEnd lineEnd) (hcore : NoBlankEnds core) (hsemicolon : ';' ∉ core) :
    trimBlanks ((lead ++ core ++ trail ++ lineEnd).takeWhile (· != ';')) = core := by
  rw [takeWhile_append_lineEnd _ hend, trimBlanks_append hlead htrail hcore]
  rw [List.mem_append, List.mem_append]
  rintro ((h | h) | h)
  · exact hlead.not_mem (by decide) h
  · exact hsemicolon h
  · exact htrail.not_mem (by decide) h

/-- A line's word ends at its first blank; what follows are the operands. -/
theorem parseLine_of_word {line word args : List Char} {vals : List Nat}
    (htrim : trimBlanks (line.takeWhile (· != ';')) = word ++ args) (hne : word ≠ []) (hword : AllPlain word)
    (hargs : ∀ c ∈ args.head?, isBlank c = true) (hvals : parseOperands (trimBlanks args) = some vals) :
    parseLine line = (parseStmt word vals).map some := by
  have hpos : ∀ c ∈ word, (!isBlank c) = true := fun c hc => by rw [(hword c hc).1]; rfl
  have htake : (word ++ args).takeWhile (fun c => !isBlank c) = word := by
    rw [List.takeWhile_append_of_pos hpos]
    cases args with
    | nil => simp
    | cons c args => simp [hargs c rfl]
  have hdrop : (word ++ args).dropWhile (fun c => !isBlank c) = args := by
    rw [List.dropWhile_append_of_pos hpos]
    cases args with
    | nil => rfl
    | cons c args => simp [hargs c rfl]
  obtain ⟨c, cs, rfl⟩ := List.exists_cons_of_ne_nil hne
  rw [List.cons_append] at htrim htake hdrop
  simp only [parseLine, htrim, htake, hdrop, hvals]

/-- What follows the word of a laid-out line. -/
def LineForm.args (f : LineForm) (ops : List Literal) : List Char :=
  (if ops.isEmpty then [] else f.gap) ++ operandsText f.before f.after ops

theorem LineForm.line_eq (f : LineForm) (word : List Char) (ops : List Literal) :
    f.line word ops = f.lead ++ (word ++ f.args ops) ++ f.trail ++ f.lineEnd := by
  simp only [LineForm.line, LineForm.args, List.append_assoc]

theorem LineForm.args_cons (f : LineForm) (l : Literal) (ls : List Literal) :
    f.args (l :: ls) = f.gap ++ operandsText f.before f.after (l :: ls) := rfl

theorem LineForm.head?_args {f : LineForm} (hgap : AllBlank f.gap) (hne : f.gap ≠ []) (ops : List Literal) :
    ∀ c ∈ (f.args ops).head?, isBlank c = true := by
  cases ops with
  | nil => simp [LineForm.args, operandsText]
  | cons l ls =>
    rw [LineForm.args_cons, List.head?_append_of_ne_nil _ hne]
    exact fun c hc => List.all_eq_true.mp hgap c (List.mem_of_mem_head? hc)

theorem LineForm.trimBlanks_args {f : LineForm} {ops : List Literal} (hgap : AllBlank f.gap)
    (hops : ∀ l ∈ ops, l.Wf) : trimBlanks (f.args ops) = operandsText f.before f.after ops := by
  have hlead : AllBlank (if ops.isEmpty then [] else f.gap) := by
    split
    · rfl
    · exact hgap
  have htrim := trimBlanks_append (trail := []) hlead rfl (operandsText_noBlankEnds f.before f.after hops)
  rwa [List.append_nil] at htrim

theorem LineForm.noBlankEnds_word_args {f : LineForm} {word : List Char} {ops : List Literal} (hne : word ≠ [])
    (hword : AllPlain word) (hops : ∀ l ∈ ops, l.Wf) : NoBlankEnds (word ++ f.args ops) := by
  obtain ⟨hhead, hlast⟩ := hword.noBlankEnds
  refine ⟨by rwa [List.head?_append_of_ne_nil _ hne], ?_⟩
  cases ops with
  | nil => rwa [show f.args [] = [] from rfl, List.append_nil]
  | cons l ls =>
    obtain ⟨-, hopsLast⟩ := operandsText_noBlankEnds f.before f.after hops
    rwa [LineForm.args_cons, ← List.append_assoc,
      List.getLast?_append_of_ne_nil _ (operandsText_ne_nil (hops l List.mem_cons_self))]

theorem LineForm.semicolon_not_mem_word_args {f : LineForm} {word : List Char} {ops : List Literal} (hf : f.Wf)
    (hword : AllPlain word) (hops : ∀ l ∈ ops, l.Wf) : ';' ∉ word ++ f.args ops := by
  obtain ⟨-, hgap, -, hbefore, hafter, -, -⟩ := hf
  rw [LineForm.args, List.mem_append, List.mem_append]
  rintro (h | h | h)
  · exact hword.semicolon_not_mem h
  · split at h
    · cases h
    · exact hgap.not_mem (by decide) h
  · exact semicolon_not_mem_operandsText hbefore hafter hops h

/-- A laid-out line is read as the statement of its word and its operands' values (R68, log 16). -/
theorem parseLine_line {f : LineForm} {word : List Char} {ops : List Literal} (hf : f.Wf) (hne : word ≠ [])
    (hword : AllPlain word) (hops : ∀ l ∈ ops, l.Wf) :
    parseLine (f.line word ops) = (parseStmt word (ops.map (·.value))).map some := by
  have hsemicolon := LineForm.semicolon_not_mem_word_args hf hword hops
  obtain ⟨hlead, hgap, hgapne, hbefore, hafter, htrail, hend⟩ := hf
  rw [LineForm.line_eq]
  refine parseLine_of_word (args := f.args ops) ?_ hne hword (LineForm.head?_args hgap hgapne ops) ?_
  · exact trimBlanks_takeWhile_line hlead htrail hend (LineForm.noBlankEnds_word_args hne hword hops) hsemicolon
  · rw [LineForm.trimBlanks_args hgap hops, parseOperands_operandsText hbefore hafter hops]

/-- A line of blanks holds no statement (R68). -/
theorem parseLine_blank {f : LineForm} (hf : f.Wf) : parseLine (f.lead ++ f.lineEnd) = .ok none := by
  obtain ⟨hlead, -, -, -, -, -, hend⟩ := hf
  have htrim := trimBlanks_takeWhile_line (core := []) (trail := []) hlead rfl hend ⟨by simp, by simp⟩ (by simp)
  rw [List.append_nil, List.append_nil] at htrim
  rw [parseLine, htrim]

theorem projectWord_allPlain : AllPlain projectWord := by simp [AllPlain, IsPlain, isBlank, projectWord]

theorem blockWord_allPlain : AllPlain blockWord := by simp [AllPlain, IsPlain, isBlank, blockWord, projectWord]

theorem idleWord_allPlain : AllPlain idleWord := by simp [AllPlain, IsPlain, isBlank, idleWord]

/-- Settles O51: the line of `PROJECT` with three operands. -/
theorem hexadecimalLineParses : Obligations.HexadecimalLineParses := by
  intro f ch az dist hf hch haz hdist
  have hops : ∀ l ∈ [ch, az, dist], l.Wf :=
    List.forall_mem_cons.mpr ⟨hch, List.forall_mem_cons.mpr ⟨haz, List.forall_mem_singleton.mpr hdist⟩⟩
  rw [parseLine_line hf (by decide) projectWord_allPlain hops]
  rfl

/-- Settles O56: the lines of `PROJECT.BLOCK` and of `IDLE`, and the line without a word. -/
theorem blockAndIdleLinesParse : Obligations.BlockAndIdleLinesParse := by
  intro f hf
  refine ⟨fun az dists haz hdists => ?_, fun n hn => ?_, ?_, parseLine_blank hf⟩
  · rw [parseLine_line hf (by decide) blockWord_allPlain (List.forall_mem_cons.mpr ⟨haz, hdists⟩)]
    rfl
  · rw [parseLine_line hf (by decide) idleWord_allPlain (List.forall_mem_singleton.mpr hn)]
    rfl
  · rw [parseLine_line hf (by decide) idleWord_allPlain (List.forall_mem_nil _)]
    rfl

end Sys2Proof.Machine
end

section
/-! PROOF. What correct rounding (`00_scope.md` R10, R12) says of the numbers themselves: the patterns of a format are
ordered as their magnitude bits, a rounded number never passes a value of the format, and its relative error is at most
half a unit in the last place wherever the number is normal. -/

namespace Sys2Proof.Machine

/-! ## The order of a format's magnitudes -/

/-- Every magnitude's bits are a significand at its shift, as rounding builds them. -/
theorem exists_shift_significand (f m : Nat) :
    ∃ e q, m = e * 2 ^ f + q ∧ (e = 0 ∨ 2 ^ f ≤ q) ∧ q < 2 ^ (f + 1) := by
  have hsplit := Nat.div_add_mod m (2 ^ f)
  have hfrac := Nat.mod_lt m (Nat.two_pow_pos f)
  have htwo : 2 ^ (f + 1) = 2 ^ f + 2 ^ f := by rw [Nat.pow_succ, Nat.mul_two]
  rw [Nat.mul_comm] at hsplit
  rcases Nat.eq_zero_or_pos (m / 2 ^ f) with h0 | hpos
  · rw [h0, Nat.zero_mul] at hsplit
    exact ⟨0, m % 2 ^ f, by omega, .inl rfl, by omega⟩
  · obtain ⟨e, he⟩ := Nat.exists_eq_add_of_le' hpos
    rw [he, Nat.add_mul] at hsplit
    exact ⟨e, 2 ^ f + m % 2 ^ f, by omega, .inr (Nat.le_add_right _ _), by omega⟩

theorem magnitudeUnits_lt_succ (f m : Nat) : magnitudeUnits f m < magnitudeUnits f (m + 1) := by
  obtain ⟨e, q, rfl, hlow, hup⟩ := exists_shift_significand f m
  rw [Nat.add_assoc, magnitudeUnits_shift hlow hup.le, magnitudeUnits_shift (hlow.imp_right Nat.le_succ_of_le) hup]
  exact Nat.mul_lt_mul_of_pos_right (Nat.lt_succ_self q) (Nat.two_pow_pos e)

theorem magnitudeUnits_strictMono (f : Nat) : StrictMono (magnitudeUnits f) :=
  strictMono_nat_of_lt_succ (magnitudeUnits_lt_succ f)

theorem ofSignMagnitude_magnitudeBits {k : Nat} (v : BitVec (k + 1)) :
    ofSignMagnitude k (v.getLsbD k) (magnitudeBits v) = v := by
  have hlt : v.toNat / 2 ^ k < 2 := Nat.div_lt_of_lt_mul (by simpa [Nat.pow_succ] using v.isLt)
  have hsplit := Nat.div_add_mod v.toNat (2 ^ k)
  have hsign := getLsbD_last_iff v
  refine BitVec.eq_of_toNat_eq ?_
  rw [ofSignMagnitude, BitVec.toNat_ofNat, magnitudeBits]
  suffices h : (if v.getLsbD k = true then 2 ^ k else 0) + v.toNat % 2 ^ k = v.toNat by
    rw [h, Nat.mod_eq_of_lt v.isLt]
  split
  · next h => rw [hsign.mp h, Nat.mul_one] at hsplit; exact hsplit
  · next h =>
    have h0 : v.toNat / 2 ^ k = 0 := Nat.lt_one_iff.mp (lt_of_le_of_ne (Nat.le_of_lt_succ hlt) (mt hsign.mpr h))
    rwa [h0, Nat.mul_zero] at hsplit

/-- A pattern is known by its sign and its value; by its value alone but for the two zeros. -/
theorem eq_of_sign64_eq_of_value64_eq {v w : F64} (hs : sign64 v = sign64 w) (h : value64 v = value64 w) : v = w := by
  have hs' : (v : BitVec (63 + 1)).getLsbD 63 = (w : BitVec (63 + 1)).getLsbD 63 := hs
  have hfactor : signFactor (v.getLsbD 63) ≠ 0 := abs_pos.mp (by rw [abs_signFactor]; exact one_pos)
  have hunit : ((2 ^ 1074 : ℕ) : ℚ) ≠ 0 := by positivity
  rw [value64_eq_formatValue, value64_eq_formatValue, formatValue, formatValue, ← hs', mul_right_inj' hfactor,
    div_left_inj' hunit, Nat.cast_inj] at h
  rw [← ofSignMagnitude_magnitudeBits (k := 63) v, ← ofSignMagnitude_magnitudeBits (k := 63) w, hs',
    (magnitudeUnits_strictMono 52).injective h]

/-! ## A rounded number never passes a value of the format -/

theorem le_of_abs_sub_le_of_le {v c r : ℝ} (h : |v - r| ≤ |c - r|) (hr : r ≤ c) : v ≤ c := by
  rw [abs_of_nonneg (sub_nonneg.mpr hr)] at h
  linarith [le_abs_self (v - r)]

theorem le_of_abs_sub_le_of_ge {v c r : ℝ} (h : |v - r| ≤ |c - r|) (hr : c ≤ r) : c ≤ v := by
  rw [abs_of_nonpos (sub_nonpos.mpr hr)] at h
  linarith [neg_abs_le (v - r)]

theorem RoundedTo64.value_le {v c : F64} {r : ℝ} (h : RoundedTo64 v r) (hc : finite64 c = true)
    (hr : r ≤ (value64 c : ℝ)) : value64 v ≤ value64 c := by
  exact_mod_cast le_of_abs_sub_le_of_le (h.2 c hc).1 hr

theorem RoundedTo64.le_value {v c : F64} {r : ℝ} (h : RoundedTo64 v r) (hc : finite64 c = true)
    (hr : (value64 c : ℝ) ≤ r) : value64 c ≤ value64 v := by
  exact_mod_cast le_of_abs_sub_le_of_ge (h.2 c hc).1 hr

theorem RoundedTo32.value_le {v c : F32} {r : ℝ} (h : RoundedTo32 v r) (hc : finite32 c = true)
    (hr : r ≤ (value32 c : ℝ)) : value32 v ≤ value32 c := by
  exact_mod_cast le_of_abs_sub_le_of_le (h.2 c hc).1 hr

theorem RoundedTo32.le_value {v c : F32} {r : ℝ} (h : RoundedTo32 v r) (hc : finite32 c = true)
    (hr : (value32 c : ℝ) ≤ r) : value32 c ≤ value32 v := by
  exact_mod_cast le_of_abs_sub_le_of_ge (h.2 c hc).1 hr

/-- A value of the format is rounded to itself. -/
theorem RoundedTo64.value_eq {v c : F64} (h : RoundedTo64 v (value64 c : ℝ)) (hc : finite64 c = true) :
    value64 v = value64 c :=
  le_antisymm (h.value_le hc le_rfl) (h.le_value hc le_rfl)

/-! ## Half a unit in the last place -/

/-- In every range of magnitudes the format has one within half a unit in the last place: at the shift of the number's
integer part, the significand is the nearest integer. -/
theorem exists_magnitudeUnits_near {f e : Nat} {x : ℝ} (hx : 0 ≤ x) (hlt : x < 2 ^ (f + 1) * 2 ^ e) :
    ∃ m, m ≤ (e + 2) * 2 ^ f ∧ |(magnitudeUnits f m : ℝ) - x| ≤ max x (2 ^ f) / 2 ^ (f + 1) := by
  have hfloor := Nat.floor_le hx
  have hup := div_lt_of_roundingShift f ⌊x⌋₊ 1
  have hlow := le_div_of_roundingShift (f := f) (n := ⌊x⌋₊) (d := 1)
  have hshift : roundingShift (f + 1) ⌊x⌋₊ 1 ≤ e := by
    refine roundingShift_le ?_
    rw [Nat.div_one, Nat.floor_lt hx]
    exact_mod_cast hlt
  rw [Nat.div_one] at hup hlow
  generalize roundingShift (f + 1) ⌊x⌋₊ 1 = s at *
  have hs : (0 : ℝ) < 2 ^ s := by positivity
  have hxup : x < 2 ^ (f + 1) * 2 ^ s := by
    have := (Nat.floor_lt hx).mp hup
    exact_mod_cast this
  have hxlow (h : s ≠ 0) : 2 ^ f * 2 ^ s ≤ x := by
    have := (Nat.le_floor_iff hx).mp (hlow h)
    exact_mod_cast this
  have hy : 0 ≤ x / 2 ^ s + 1 / 2 := by positivity
  have hq1 := Nat.floor_le hy
  have hq2 := Nat.lt_floor_add_one (x / 2 ^ s + 1 / 2)
  have hqup : ⌊x / 2 ^ s + 1 / 2⌋₊ ≤ 2 ^ (f + 1) := by
    rw [← Nat.lt_succ_iff, Nat.floor_lt hy]
    have := (div_lt_iff₀ hs).mpr hxup
    push_cast
    linarith
  have hqlow : s = 0 ∨ 2 ^ f ≤ ⌊x / 2 ^ s + 1 / 2⌋₊ := by
    by_cases h : s = 0
    · exact .inl h
    · have := (le_div_iff₀ hs).mpr (hxlow h)
      exact .inr ((Nat.le_floor_iff hy).mpr (by push_cast; linarith))
  refine ⟨s * 2 ^ f + ⌊x / 2 ^ s + 1 / 2⌋₊, ?_, ?_⟩
  · have := Nat.mul_le_mul_right (2 ^ f) hshift
    rw [Nat.pow_succ] at hqup
    rw [Nat.add_mul]
    omega
  · rw [magnitudeUnits_shift hqlow hqup]
    generalize ⌊x / 2 ^ s + 1 / 2⌋₊ = q at *
    have hscale : ((q * 2 ^ s : ℕ) : ℝ) - x = (q - x / 2 ^ s) * 2 ^ s := by push_cast; field_simp
    have hhalf : |(q : ℝ) - x / 2 ^ s| ≤ 1 / 2 := abs_le.mpr ⟨by linarith, by linarith⟩
    have hulp : (2 : ℝ) ^ f * 2 ^ s ≤ max x (2 ^ f) := by
      by_cases h : s = 0
      · rw [h, pow_zero, mul_one]; exact le_max_right _ _
      · exact (hxlow h).trans (le_max_left _ _)
    rw [hscale, abs_mul, abs_of_pos hs, le_div_iff₀ (by positivity)]
    calc |(q : ℝ) - x / 2 ^ s| * 2 ^ s * 2 ^ (f + 1) ≤ 1 / 2 * 2 ^ s * 2 ^ (f + 1) := by gcongr
      _ = 2 ^ f * 2 ^ s := by ring
      _ ≤ max x (2 ^ f) := hulp

/-- The error of a correctly rounded number, in any format: at most half a unit in the last place, which for a number
below the normal range is that of its least. -/
theorem NearestEven.abs_sub_le {k f u e infinity : Nat} {v : BitVec (k + 1)} {r : ℝ}
    (h : NearestEven f u infinity v r) (hinf : (e + 2) * 2 ^ f < infinity) (hk : infinity ≤ 2 ^ k)
    (hr : |r| < 2 ^ (f + 1) * 2 ^ e / 2 ^ u) :
    |((formatValue f u v : ℚ) : ℝ) - r| ≤ max |r| (2 ^ f / 2 ^ u) / 2 ^ (f + 1) := by
  have hu : (0 : ℝ) < 2 ^ u := by positivity
  obtain ⟨m, hm, hnear⟩ := exists_magnitudeUnits_near (f := f) (e := e) (x := |r| * 2 ^ u) (by positivity)
    ((lt_div_iff₀ hu).mp hr)
  have hlt : m < 2 ^ k := by omega
  have hsign : r = (signFactor (decide (r < 0)) : ℚ) * |r| := by
    rcases lt_or_ge r 0 with hneg | hpos
    · simp [hneg, abs_of_neg hneg]
    · simp [hpos.not_gt, abs_of_nonneg hpos]
  have habs : |((signFactor (decide (r < 0)) : ℚ) : ℝ)| = 1 := by exact_mod_cast abs_signFactor _
  have hc := (h.2 (ofSignMagnitude k (decide (r < 0)) m) (by rw [magnitudeBits_ofSignMagnitude _ hlt]; omega)).1
  refine hc.trans ?_
  rw [formatValue, magnitudeBits_ofSignMagnitude _ hlt, sign_ofSignMagnitude _ hlt]
  calc |(((signFactor (decide (r < 0)) * (magnitudeUnits f m / (2 ^ u : ℕ)) : ℚ)) : ℝ) - r|
      = |((signFactor (decide (r < 0)) : ℚ) : ℝ) * (magnitudeUnits f m / 2 ^ u - |r|)| := by
        rw [mul_sub, ← hsign]; push_cast; rfl
    _ = |(magnitudeUnits f m : ℝ) - |r| * 2 ^ u| / 2 ^ u := by
        rw [abs_mul, habs, one_mul, div_sub' hu.ne', abs_div, abs_of_pos hu, mul_comm]
    _ ≤ max (|r| * 2 ^ u) (2 ^ f) / 2 ^ (f + 1) / 2 ^ u := by gcongr
    _ = max |r| (2 ^ f / 2 ^ u) / 2 ^ (f + 1) := by
        rw [div_right_comm, ← max_div_div_right hu.le, mul_div_cancel_right₀ _ hu.ne']

theorem RoundedTo64.abs_sub_le {v : F64} {r : ℝ} (h : RoundedTo64 v r) (hr : |r| ≤ 10 ^ 30) :
    |(value64 v : ℝ) - r| ≤ max |r| (1 / 10 ^ 50) / 2 ^ 53 := by
  have hmax : |r| < 2 ^ (52 + 1) * 2 ^ (1074 + 47) / 2 ^ 1074 := by
    rw [pow_add 2 1074, mul_left_comm, mul_div_cancel_left₀ _ (by positivity)]
    exact hr.trans_lt (by norm_num)
  have hmin : (2 : ℝ) ^ 52 / 2 ^ 1074 ≤ 1 / 10 ^ 50 := by
    calc (2 : ℝ) ^ 52 / 2 ^ 1074 ≤ 2 ^ 52 / 2 ^ 250 := by
          exact div_le_div_of_nonneg_left (by positivity) (by positivity) (pow_le_pow_right₀ one_le_two (by decide))
      _ ≤ 1 / 10 ^ 50 := by norm_num
  have herr := ((roundedTo64_iff v r).mp h).abs_sub_le (by decide) (by decide) hmax
  rw [← value64_eq_formatValue] at herr
  exact herr.trans (div_le_div_of_nonneg_right (max_le_max le_rfl hmin) (by positivity))

theorem RoundedTo32.abs_sub_le {v : F32} {r : ℝ} (h : RoundedTo32 v r) (hr : |r| ≤ 10 ^ 30) :
    |(value32 v : ℝ) - r| ≤ max |r| (1 / 10 ^ 30) / 2 ^ 24 := by
  have hmax : |r| < 2 ^ (23 + 1) * 2 ^ 230 / 2 ^ 149 := hr.trans_lt (by norm_num)
  have hmin : (2 : ℝ) ^ 23 / 2 ^ 149 ≤ 1 / 10 ^ 30 := by norm_num
  have herr := ((roundedTo32_iff v r).mp h).abs_sub_le (by decide) (by decide) hmax
  rw [← value32_eq_formatValue] at herr
  exact herr.trans (div_le_div_of_nonneg_right (max_le_max le_rfl hmin) (by positivity))

end Sys2Proof.Machine
end

section
/-! PROOF. How relative errors and magnitudes go through a chain of correctly rounded operations. -/

namespace Sys2Proof.Machine

/-! ## Relative errors -/

/-- `y` is `x` but for a relative error of at most `ε`. -/
def RelNear (ε y x : ℝ) : Prop := |y - x| ≤ ε * |x|

theorem relNear_refl {ε : ℝ} (hε : 0 ≤ ε) (x : ℝ) : RelNear ε x x := by
  rw [RelNear, sub_self, abs_zero]; positivity

theorem RelNear.mono {ε δ y x : ℝ} (h : RelNear ε y x) (hle : ε ≤ δ) : RelNear δ y x :=
  le_trans h (mul_le_mul_of_nonneg_right hle (abs_nonneg x))

/-- The magnitudes differ by the same relative error. -/
theorem RelNear.abs_bounds {ε y x : ℝ} (h : RelNear ε y x) : (1 - ε) * |x| ≤ |y| ∧ |y| ≤ (1 + ε) * |x| := by
  unfold RelNear at h
  have h1 := abs_sub_abs_le_abs_sub y x
  have h2 := abs_sub_abs_le_abs_sub x y
  rw [abs_sub_comm] at h2
  constructor <;> linarith

theorem RelNear.trans {ε δ z y x : ℝ} (hδ : 0 ≤ δ) (h : RelNear δ z y) (h' : RelNear ε y x) :
    RelNear (ε + δ * (1 + ε)) z x := by
  have hy := h'.abs_bounds.2
  unfold RelNear at *
  calc |z - x| ≤ |z - y| + |y - x| := abs_sub_le z y x
    _ ≤ δ * ((1 + ε) * |x|) + ε * |x| := add_le_add (h.trans (mul_le_mul_of_nonneg_left hy hδ)) h'
    _ = (ε + δ * (1 + ε)) * |x| := by ring

theorem RelNear.mul_right {ε y x : ℝ} (h : RelNear ε y x) (c : ℝ) : RelNear ε (y * c) (x * c) := by
  unfold RelNear at *
  rw [← sub_mul, abs_mul, abs_mul, ← mul_assoc]
  exact mul_le_mul_of_nonneg_right h (abs_nonneg c)

theorem RelNear.mul_left {ε y x : ℝ} (h : RelNear ε y x) (c : ℝ) : RelNear ε (c * y) (c * x) := by
  rw [mul_comm c, mul_comm c]
  exact h.mul_right c

theorem RelNear.div_const {ε y x : ℝ} (h : RelNear ε y x) (c : ℝ) : RelNear ε (y / c) (x / c) := by
  rw [div_eq_mul_inv, div_eq_mul_inv]
  exact h.mul_right c⁻¹

/-- The square has twice the relative error, and its square. -/
theorem RelNear.sq {ε y x : ℝ} (h : RelNear ε y x) : |y ^ 2 - x ^ 2| ≤ (2 * ε + ε ^ 2) * x ^ 2 := by
  have hsum : |y + x| ≤ (2 + ε) * |x| := by
    have := abs_add_le y x
    linarith [h.abs_bounds.2]
  unfold RelNear at h
  calc |y ^ 2 - x ^ 2| = |y - x| * |y + x| := by rw [← abs_mul]; ring_nf
    _ ≤ ε * |x| * ((2 + ε) * |x|) := mul_le_mul h hsum (abs_nonneg _) ((abs_nonneg _).trans h)
    _ = (2 * ε + ε ^ 2) * |x| ^ 2 := by ring
    _ = (2 * ε + ε ^ 2) * x ^ 2 := by rw [sq_abs]

/-- Numbers that are further apart than their errors stay in order. -/
theorem RelNear.lt_of_lt {ε y y' x x' : ℝ} (h : RelNear ε y x) (h' : RelNear ε y' x') (hx : 0 ≤ x) (hx' : 0 ≤ x')
    (hlt : (1 + ε) * x < (1 - ε) * x') : y < y' := by
  unfold RelNear at h h'
  rw [abs_of_nonneg hx] at h
  rw [abs_of_nonneg hx'] at h'
  linarith [le_abs_self (y - x), neg_abs_le (y' - x')]

/-! ## Ranges of magnitudes -/

/-- The magnitude of `x` is from `lo` to `hi`. -/
abbrev AbsBetween {K : Type} [Field K] [LinearOrder K] (lo hi x : K) : Prop := lo ≤ |x| ∧ |x| ≤ hi

section AbsBetween

variable {K : Type} [Field K] [LinearOrder K] {lo hi lo' hi' x y : K}

theorem AbsBetween.mono (h : AbsBetween lo hi x) (hlo : lo' ≤ lo) (hhi : hi ≤ hi') : AbsBetween lo' hi' x :=
  ⟨hlo.trans h.1, h.2.trans hhi⟩

theorem AbsBetween.mul [IsStrictOrderedRing K] (hlo : 0 ≤ lo) (hlo' : 0 ≤ lo') (h : AbsBetween lo hi x)
    (h' : AbsBetween lo' hi' y) : AbsBetween (lo * lo') (hi * hi') (x * y) := by
  obtain ⟨h1, h2⟩ := h
  obtain ⟨h1', h2'⟩ := h'
  rw [AbsBetween, abs_mul]
  exact ⟨mul_le_mul h1 h1' hlo' (hlo.trans h1), mul_le_mul h2 h2' (abs_nonneg y) ((abs_nonneg x).trans h2)⟩

end AbsBetween

@[norm_cast] theorem absBetween_cast {lo hi x : ℚ} : AbsBetween (lo : ℝ) hi x ↔ AbsBetween lo hi x := by
  simp only [AbsBetween]
  norm_cast

theorem RelNear.absBetween {lo hi ε y x : ℝ} (hy : RelNear ε y x) (hε : 0 ≤ ε) (hε' : ε ≤ 1)
    (h : AbsBetween lo hi x) : AbsBetween ((1 - ε) * lo) ((1 + ε) * hi) y := by
  obtain ⟨h1, h2⟩ := h
  obtain ⟨hlow, hup⟩ := hy.abs_bounds
  exact ⟨(mul_le_mul_of_nonneg_left h1 (by linarith)).trans hlow,
    hup.trans (mul_le_mul_of_nonneg_left h2 (by linarith))⟩

/-- Zero, or of a magnitude from `lo` to `hi`. -/
def ZeroOrBetween (lo hi x : ℝ) : Prop := x = 0 ∨ AbsBetween lo hi x

theorem ZeroOrBetween.mono {lo hi lo' hi' x : ℝ} (h : ZeroOrBetween lo hi x) (hlo : lo' ≤ lo) (hhi : hi ≤ hi') :
    ZeroOrBetween lo' hi' x :=
  h.imp_right fun h => h.mono hlo hhi

theorem ZeroOrBetween.abs_le {lo hi x : ℝ} (h : ZeroOrBetween lo hi x) (hhi : 0 ≤ hi) : |x| ≤ hi := by
  rcases h with rfl | ⟨-, h⟩
  · rwa [abs_zero]
  · exact h

theorem ZeroOrBetween.mul {lo hi lo' hi' x y : ℝ} (hlo : 0 ≤ lo) (hlo' : 0 ≤ lo') (h : ZeroOrBetween lo hi x)
    (h' : ZeroOrBetween lo' hi' y) : ZeroOrBetween (lo * lo') (hi * hi') (x * y) := by
  rcases h with rfl | h
  · exact .inl (zero_mul y)
  rcases h' with rfl | h'
  · exact .inl (mul_zero x)
  exact .inr (h.mul hlo hlo' h')

theorem ZeroOrBetween.of_relNear {lo hi ε y x : ℝ} (h : ZeroOrBetween lo hi x) (hε : 0 ≤ ε) (hε' : ε ≤ 1)
    (hy : RelNear ε y x) : ZeroOrBetween ((1 - ε) * lo) ((1 + ε) * hi) y := by
  rcases h with rfl | h
  · have hzero := hy.abs_bounds.2
    rw [abs_zero, mul_zero] at hzero
    exact .inl (abs_nonpos_iff.mp hzero)
  · exact .inr (hy.absBetween hε hε' h)

/-- The range in which both formats are normal, with much room: all numbers that PROJECT forms lie in it. -/
abbrev InRange (x : ℝ) : Prop := ZeroOrBetween (1 / 10 ^ 30) (10 ^ 30) x

/-- The end of that range, with what makes it one: both formats reach it. -/
def rangeEnd : { b : ℚ // b ≤ maxFinite64 ∧ b ≤ maxFinite32 } := ⟨10 ^ 30, by decide +kernel⟩

theorem inRange_le_maxFinite64 : (10 ^ 30 : ℚ) ≤ maxFinite64 := rangeEnd.2.1

theorem inRange_le_maxFinite32 : (10 ^ 30 : ℚ) ≤ maxFinite32 := rangeEnd.2.2

theorem value64_zero : value64 0 = 0 := by decide +kernel

theorem value32_zero : value32 0 = 0 := by decide +kernel

/-- In this range a correctly rounded binary64 number has the relative error `2^-53`; zero is exact. -/
theorem RoundedTo64.relNear {v : F64} {r : ℝ} (h : RoundedTo64 v r) (hr : InRange r) :
    RelNear (1 / 2 ^ 53) (value64 v) r := by
  rcases hr with rfl | ⟨hlow, hup⟩
  · have hv : value64 v = value64 0 := RoundedTo64.value_eq (by rwa [value64_zero, Rat.cast_zero]) (by decide)
    rw [hv, value64_zero, Rat.cast_zero]
    exact relNear_refl (by positivity) 0
  · have herr := h.abs_sub_le hup
    rw [max_eq_left (le_trans (by norm_num) hlow)] at herr
    rwa [RelNear, one_div_mul_eq_div]

/-- In this range a correctly rounded binary32 number has the relative error `2^-24`; zero is exact. -/
theorem RoundedTo32.relNear {v : F32} {r : ℝ} (h : RoundedTo32 v r) (hr : InRange r) :
    RelNear (1 / 2 ^ 24) (value32 v) r := by
  rcases hr with rfl | ⟨hlow, hup⟩
  · have hzero : ((value32 0 : ℚ) : ℝ) = 0 := by rw [value32_zero, Rat.cast_zero]
    have hle := h.value_le (c := 0) (by decide) hzero.ge
    have hge := h.le_value (c := 0) (by decide) hzero.le
    rw [le_antisymm hle hge, hzero]
    exact relNear_refl (by positivity) 0
  · have herr := h.abs_sub_le hup
    rw [max_eq_left hlow] at herr
    rwa [RelNear, one_div_mul_eq_div]

/-! ## One operation -/

theorem mul64_roundedTo64 {a b : F64} (ha : finite64 a = true) (hb : finite64 b = true)
    (h : |(value64 a : ℝ) * value64 b| ≤ 10 ^ 30) : RoundedTo64 (mul64 a b) ((value64 a : ℝ) * value64 b) := by
  have hle : |value64 a * value64 b| ≤ maxFinite64 := le_trans (by exact_mod_cast h) inRange_le_maxFinite64
  have hround := mulIsCorrectlyRounded a b ha hb hle
  rwa [Rat.cast_mul] at hround

theorem div64_roundedTo64 {a b : F64} (ha : finite64 a = true) (hb : finite64 b = true) (h0 : value64 b ≠ 0)
    (h : |(value64 a : ℝ) / value64 b| ≤ 10 ^ 30) : RoundedTo64 (div64 a b) ((value64 a : ℝ) / value64 b) := by
  have hle : |value64 a / value64 b| ≤ maxFinite64 := le_trans (by exact_mod_cast h) inRange_le_maxFinite64
  have hround := divIsCorrectlyRounded a b ha hb h0 hle
  rwa [Rat.cast_div] at hround

theorem narrow32_roundedTo32 {v : F64} (hv : finite64 v = true) (h : |(value64 v : ℝ)| ≤ 10 ^ 30) :
    RoundedTo32 (narrow32 v) (value64 v) :=
  narrowIsCorrectlyRounded v hv (le_trans (by exact_mod_cast h) inRange_le_maxFinite32)

end Sys2Proof.Machine
end

section
/-! PROOF. The operands of PROJECT as numbers (`40_project.md` R83, R84, R95): the distance and the azimuth are their
codes times a constant but for the rounding of each step, so they grow with the code. -/

namespace Sys2Proof.Machine

/-! ## Normal values -/

theorem fraction64_mul_lt (v : F64) {u : Nat} (hu : 200 ≤ u) : fraction64 v * 10 ^ 30 < 2 ^ u := by
  calc fraction64 v * 10 ^ 30 < 2 ^ 52 * 10 ^ 30 := Nat.mul_lt_mul_of_pos_right (fraction64_lt v) (by decide)
    _ ≤ 2 ^ 200 := by norm_num
    _ ≤ 2 ^ u := Nat.pow_le_pow_right two_pos hu

theorem exponent64_ne_zero {v : F64} (h : 1 / 10 ^ 30 ≤ |value64 v|) : exponent64 v ≠ 0 := by
  intro h0
  have hfrac : fraction64 v * 10 ^ 30 < denominator64 v := by
    rw [denominator64, h0]
    exact fraction64_mul_lt v (by decide)
  have hnum : numerator64 v = fraction64 v := by
    rw [numerator64, significand64, if_pos h0, h0, Nat.zero_sub, pow_zero, Nat.mul_one]
  have hden : (0 : ℚ) < denominator64 v := by exact_mod_cast denominator64_pos v
  rw [abs_value64, hnum, div_le_div_iff₀ (by positivity) hden, one_mul] at h
  exact absurd (by exact_mod_cast h) (Nat.not_le.mpr hfrac)

theorem exponent32_ne_zero {v : F32} (h : 1 / 10 ^ 30 ≤ |value32 v|) : exponent32 v ≠ 0 := by
  intro h0
  have hfrac : fraction32 v * 2 * 10 ^ 30 < 2 ^ 150 := by
    have : fraction32 v < 2 ^ 23 := (v.extractLsb' 0 23).isLt
    omega
  have habs : |(if sign32 v then -1 else 1 : ℚ)| = 1 := abs_signFactor (sign32 v)
  rw [value32, abs_mul, habs, one_mul, abs_of_nonneg (by positivity), significand32, if_pos h0, h0,
    div_le_div_iff₀ (by positivity) (by positivity), one_mul] at h
  exact absurd (by exact_mod_cast h) (Nat.not_le.mpr hfrac)

/-! ## Codes -/

theorem finite64_toF64 (n : BitVec 16) : finite64 (toF64 n) = true := (toF64IsExact n).1

theorem value64_toF64 (n : BitVec 16) : value64 (toF64 n) = (n.toNat : ℚ) := (toF64IsExact n).2.1

theorem code_le (n : BitVec 16) : (n.toNat : ℝ) ≤ 65535 := by
  exact_mod_cast Nat.le_of_lt_succ n.isLt

theorem zeroOrBetween_code (n : BitVec 16) : ZeroOrBetween 1 65535 (n.toNat : ℝ) := by
  rcases Nat.eq_zero_or_pos n.toNat with h | h
  · exact .inl (by rw [h, Nat.cast_zero])
  · rw [ZeroOrBetween, AbsBetween, Nat.abs_cast]
    exact .inr ⟨by exact_mod_cast h, code_le n⟩

theorem code_pos {n : BitVec 16} (h : n ≠ 0) : (1 : ℝ) ≤ n.toNat := by
  have : n.toNat ≠ 0 := fun h0 => h (BitVec.eq_of_toNat_eq h0)
  exact_mod_cast Nat.one_le_iff_ne_zero.mpr this

/-- Codes times a constant stay in order through errors far below the reciprocal of the largest code. -/
theorem lt_of_relNear_code {m n : BitVec 16} {c y y' : ℝ} (hc : 0 < c) (h : m.toNat < n.toNat)
    (hy : RelNear (4 / 2 ^ 53) y (m.toNat * c)) (hy' : RelNear (4 / 2 ^ 53) y' (n.toNat * c)) : y < y' := by
  refine hy.lt_of_lt hy' (by positivity) (by positivity) ?_
  have hstep : (m.toNat : ℝ) + 1 ≤ n.toNat := by exact_mod_cast h
  have hle := code_le m
  rw [← mul_assoc, ← mul_assoc]
  exact mul_lt_mul_of_pos_right (by norm_num; linarith) hc

/-! ## The distance (R83) -/

section Operands

variable {hw : Hardware}

theorem distanceMetres_of_spec (h : hw.SpecConstants) (n : BitVec 16) :
    distanceMetres hw n = mul64 (toF64 n) constScale := by
  obtain ⟨hscale, -, -, -⟩ := h
  rw [distanceMetres, hscale]

/-- The exact product that the distance rounds. -/
theorem zeroOrBetween_scaled_code (n : BitVec 16) :
    ZeroOrBetween (1 / 1000) 132 ((n.toNat : ℝ) * (value64 constScale : ℝ)) := by
  have hscale : ZeroOrBetween (1 / 1000) (2001 / 1000000) ((value64 constScale : ℚ) : ℝ) := by
    rw [value64_constScale]
    right
    constructor <;> norm_num
  exact ((zeroOrBetween_code n).mul one_pos.le (by norm_num) hscale).mono (by norm_num) (by norm_num)

theorem roundedTo64_distanceMetres (h : hw.SpecConstants) (n : BitVec 16) :
    RoundedTo64 (distanceMetres hw n) (n.toNat * (value64 constScale : ℝ)) := by
  have htoF64 : ((value64 (toF64 n) : ℚ) : ℝ) = n.toNat := by rw [value64_toF64, Rat.cast_natCast]
  rw [distanceMetres_of_spec h, ← htoF64]
  refine mul64_roundedTo64 (finite64_toF64 n) (by decide) ?_
  rw [htoF64]
  exact ((zeroOrBetween_scaled_code n).abs_le (by norm_num)).trans (by norm_num)

theorem finite64_distanceMetres (h : hw.SpecConstants) (n : BitVec 16) : finite64 (distanceMetres hw n) = true :=
  (roundedTo64_distanceMetres h n).1

theorem relNear_distanceMetres (h : hw.SpecConstants) (n : BitVec 16) :
    RelNear (1 / 2 ^ 53) (value64 (distanceMetres hw n)) (n.toNat * (value64 constScale : ℝ)) :=
  (roundedTo64_distanceMetres h n).relNear ((zeroOrBetween_scaled_code n).mono (by norm_num) (by norm_num))

theorem distanceMetres_strictMono (h : hw.SpecConstants) {m n : BitVec 16} (hlt : m.toNat < n.toNat) :
    value64 (distanceMetres hw m) < value64 (distanceMetres hw n) := by
  have hscale : (0 : ℝ) < (value64 constScale : ℝ) := by rw [value64_constScale]; norm_num
  have hε : (1 : ℝ) / 2 ^ 53 ≤ 4 / 2 ^ 53 := by norm_num
  exact_mod_cast lt_of_relNear_code hscale hlt ((relNear_distanceMetres h m).mono hε)
    ((relNear_distanceMetres h n).mono hε)

theorem constScale_le_distanceMetres (h : hw.SpecConstants) {n : BitVec 16} (hn : n ≠ 0) :
    value64 constScale ≤ value64 (distanceMetres hw n) := by
  refine (roundedTo64_distanceMetres h n).le_value (by decide) ?_
  have hscale : (0 : ℝ) ≤ (value64 constScale : ℝ) := by rw [value64_constScale]; norm_num
  exact le_mul_of_one_le_left hscale (code_pos hn)

/-- The largest code gives the binary64 value 131.07 (R83), and no code more. -/
theorem distanceMetres_le (h : hw.SpecConstants) (n : BitVec 16) :
    value64 (distanceMetres hw n) ≤ value64 0x4060623D70A3D70A := by
  have hlast : distanceMetres hw 65535 = 0x4060623D70A3D70A := by
    rw [distanceMetres_of_spec h]; decide +kernel
  rw [← hlast]
  rcases Nat.lt_or_ge n.toNat 65535 with hlt | hge
  · exact (distanceMetres_strictMono h hlt).le
  · rw [BitVec.eq_of_toNat_eq (x := n) (y := 65535) (le_antisymm (Nat.le_of_lt_succ n.isLt) hge)]

/-! ## The azimuth (R84) -/

theorem azimuthDegrees_of_spec (h : hw.SpecConstants) (n : BitVec 16) :
    azimuthDegrees hw n = div64 (toF64 n) const100 := by
  obtain ⟨-, h100, -, -⟩ := h
  rw [azimuthDegrees, h100]

theorem azimuthRadians_of_spec (h : hw.SpecConstants) (n : BitVec 16) :
    azimuthRadians hw n = div64 (mul64 (azimuthDegrees hw n) constPi) const180 := by
  obtain ⟨-, -, hpi, h180⟩ := h
  rw [azimuthRadians, degreesToRadians, hpi, h180]

theorem zeroOrBetween_code_div (n : BitVec 16) : ZeroOrBetween (1 / 100) 656 ((n.toNat : ℝ) / 100) := by
  have hconst : ZeroOrBetween (1 / 100) (1 / 100) ((100 : ℝ)⁻¹) := by
    right
    constructor <;> norm_num
  exact ((zeroOrBetween_code n).mul one_pos.le (by norm_num) hconst).mono (by norm_num) (by norm_num)

theorem roundedTo64_azimuthDegrees (h : hw.SpecConstants) (n : BitVec 16) :
    RoundedTo64 (azimuthDegrees hw n) (n.toNat / 100) := by
  have htoF64 : ((value64 (toF64 n) : ℚ) : ℝ) = n.toNat := by rw [value64_toF64, Rat.cast_natCast]
  have h100 : ((value64 const100 : ℚ) : ℝ) = 100 := by rw [value64_const100, Rat.cast_ofNat]
  rw [azimuthDegrees_of_spec h, ← htoF64, ← h100]
  refine div64_roundedTo64 (finite64_toF64 n) (by decide) (by rw [value64_const100]; norm_num) ?_
  rw [htoF64, h100]
  exact ((zeroOrBetween_code_div n).abs_le (by norm_num)).trans (by norm_num)

theorem relNear_azimuthDegrees (h : hw.SpecConstants) (n : BitVec 16) :
    RelNear (1 / 2 ^ 53) (value64 (azimuthDegrees hw n)) (n.toNat / 100) :=
  (roundedTo64_azimuthDegrees h n).relNear ((zeroOrBetween_code_div n).mono (by norm_num) (by norm_num))

theorem zeroOrBetween_constPi : ZeroOrBetween 3 4 ((value64 constPi : ℚ) : ℝ) := by
  rw [value64_constPi]
  right
  constructor <;> norm_num

/-- Three roundings take the azimuth from its code times `C_PI / 18000`. -/
theorem azimuthRadians_relNear (h : hw.SpecConstants) (n : BitVec 16) :
    finite64 (azimuthRadians hw n) = true ∧
    RelNear (4 / 2 ^ 53) (value64 (azimuthRadians hw n)) (n.toNat * ((value64 constPi : ℝ) / 18000)) := by
  have hdeg := relNear_azimuthDegrees h n
  have hprod : ZeroOrBetween (1 / 100) 3000 ((value64 (azimuthDegrees hw n) : ℝ) * (value64 constPi : ℝ)) :=
    (((zeroOrBetween_code_div n).of_relNear (by norm_num) (by norm_num) hdeg).mul (by norm_num) (by norm_num)
      zeroOrBetween_constPi).mono (by norm_num) (by norm_num)
  have hmul := mul64_roundedTo64 (roundedTo64_azimuthDegrees h n).1 (b := constPi) (by decide)
    ((hprod.abs_le (by norm_num)).trans (by norm_num))
  have ht := hmul.relNear (hprod.mono (by norm_num) (by norm_num))
  have hquot : ZeroOrBetween (1 / 36000) 3000 ((value64 (mul64 (azimuthDegrees hw n) constPi) : ℝ) / 180) := by
    have hconst : ZeroOrBetween (1 / 180) (1 / 180) ((180 : ℝ)⁻¹) := by
      right
      constructor <;> norm_num
    exact ((hprod.of_relNear (by norm_num) (by norm_num) ht).mul (by norm_num) (by norm_num) hconst).mono
      (by norm_num) (by norm_num)
  have h180 : ((value64 const180 : ℚ) : ℝ) = 180 := by rw [value64_const180, Rat.cast_ofNat]
  have hdiv := div64_roundedTo64 hmul.1 (b := const180) (by decide) (by rw [value64_const180]; norm_num)
    (by rw [h180]; exact (hquot.abs_le (by norm_num)).trans (by norm_num))
  rw [h180] at hdiv
  have hrad := hdiv.relNear (hquot.mono (by norm_num) (by norm_num))
  rw [azimuthRadians_of_spec h]
  refine ⟨hdiv.1, ?_⟩
  have hchain := hrad.trans (by norm_num) ((ht.trans (by norm_num) (hdeg.mul_right _)).div_const 180)
  rw [show (n.toNat : ℝ) / 100 * (value64 constPi : ℝ) / 180 = n.toNat * ((value64 constPi : ℝ) / 18000) by ring]
    at hchain
  exact hchain.mono (by norm_num)

theorem azimuthDegrees_strictMono (h : hw.SpecConstants) {m n : BitVec 16} (hlt : m.toNat < n.toNat) :
    value64 (azimuthDegrees hw m) < value64 (azimuthDegrees hw n) := by
  have hdeg (k : BitVec 16) : RelNear (4 / 2 ^ 53) (value64 (azimuthDegrees hw k)) (k.toNat * (100 : ℝ)⁻¹) :=
    (relNear_azimuthDegrees h k).mono (by norm_num)
  exact_mod_cast lt_of_relNear_code (by norm_num) hlt (hdeg m) (hdeg n)

theorem azimuthRadians_strictMono (h : hw.SpecConstants) {m n : BitVec 16} (hlt : m.toNat < n.toNat) :
    value64 (azimuthRadians hw m) < value64 (azimuthRadians hw n) := by
  have hpi : (0 : ℝ) < (value64 constPi : ℝ) / 18000 := by rw [value64_constPi]; norm_num
  exact_mod_cast lt_of_relNear_code hpi hlt (azimuthRadians_relNear h m).2 (azimuthRadians_relNear h n).2

theorem azimuthRadians_zero (h : hw.SpecConstants) : azimuthRadians hw 0 = 0 := by
  rw [azimuthRadians_of_spec h, azimuthDegrees_of_spec h]; decide +kernel

theorem azimuthDegrees_last (h : hw.SpecConstants) : azimuthDegrees hw 65535 = 0x40847ACCCCCCCCCD := by
  rw [azimuthDegrees_of_spec h]; decide +kernel

theorem azimuthRadians_last (h : hw.SpecConstants) : azimuthRadians hw 65535 = 0x4026E04389051832 := by
  rw [azimuthRadians_of_spec h, azimuthDegrees_last h]; decide +kernel

/-- Only code 0 gives the angle 0: any other gives a larger one. -/
theorem azimuthRadians_eq_zero_iff (h : hw.SpecConstants) (n : BitVec 16) : azimuthRadians hw n = 0 ↔ n = 0 := by
  refine ⟨fun h0 => by_contra fun hn => ?_, fun hn => hn ▸ azimuthRadians_zero h⟩
  have hpos : (0 : BitVec 16).toNat < n.toNat := Nat.pos_of_ne_zero fun h0 => hn (BitVec.eq_of_toNat_eq h0)
  have hlt := azimuthRadians_strictMono h hpos
  rw [azimuthRadians_zero h, h0] at hlt
  exact hlt.false

end Operands

/-- Settles O42: the rounded products of the codes by `C_SCALE` stay in order, and their ends are values of the
format. -/
theorem distanceRange : Obligations.DistanceRange := by
  intro hw h
  refine ⟨fun m n => distanceMetres_strictMono h, fun n hn => ?_⟩
  have hlow := constScale_le_distanceMetres h hn
  refine ⟨finite64_distanceMetres h n, exponent64_ne_zero ?_, hlow, distanceMetres_le h n⟩
  have hscale : (1 / 10 ^ 30 : ℚ) ≤ value64 constScale := by rw [value64_constScale]; norm_num
  exact (hscale.trans hlow).trans (le_abs_self _)

/-- Settles O43: each code's rounded steps stay in order up to the last code; 360 degrees is a value of the format, so
rounding does not fall below it. -/
theorem azimuthIsNotWrapped : Obligations.AzimuthIsNotWrapped := by
  intro hw h
  refine ⟨fun m n hlt => ⟨azimuthDegrees_strictMono h hlt, azimuthRadians_strictMono h hlt⟩, fun n => ?_,
    azimuthDegrees_last h, azimuthRadians_last h⟩
  have hdeg := roundedTo64_azimuthDegrees h n
  refine ⟨hdeg.1, (azimuthRadians_relNear h n).1, azimuthRadians_eq_zero_iff h n, fun hn => ?_, ?_⟩
  · have h360 : value64 0x4076800000000000 = 360 := by decide +kernel
    rw [← h360]
    refine hdeg.le_value (by decide) ?_
    rw [h360, Rat.cast_ofNat, le_div_iff₀ (by norm_num)]
    have : (36000 : ℝ) ≤ n.toNat := by exact_mod_cast hn
    linarith
  · rw [← azimuthDegrees_last h, ← azimuthRadians_last h]
    rcases Nat.lt_or_ge n.toNat 65535 with hlt | hge
    · exact ⟨(azimuthDegrees_strictMono h hlt).le, (azimuthRadians_strictMono h hlt).le⟩
    · rw [BitVec.eq_of_toNat_eq (x := n) (y := 65535) (le_antisymm (Nat.le_of_lt_succ n.isLt) hge)]
      exact ⟨le_rfl, le_rfl⟩

end Sys2Proof.Machine
end

section
/-! PROOF. The azimuth's sine and cosine stay away from zero (`40_project.md` R85). An angle of `n` hundredths of a
degree that is no multiple of 90 degrees is far from every zero, and the rounding of the azimuth moves it by far less;
at the multiples of 90 degrees themselves the certified values are evaluated. -/

namespace Sys2Proof.Machine

/-! ## Angles in hundredths of a degree -/

/-- An angle within a half turn, at least a hundredth of a degree from both ends. -/
theorem le_sin_of_code {r : Nat} (hpos : 1 ≤ r) (hlt : r ≤ 17999) : 1 / 9000 ≤ Real.sin (r * (Real.pi / 18000)) := by
  have hpi := Real.pi_pos
  have hquarter {k : Nat} (hk : 1 ≤ k) (hk' : k ≤ 9000) : 1 / 9000 ≤ Real.sin (k * (Real.pi / 18000)) := by
    have hk'' : (k : ℝ) ≤ 9000 := by exact_mod_cast hk'
    have hjordan := Real.mul_le_sin (x := k * (Real.pi / 18000)) (by positivity) (by nlinarith)
    have hlinear : 2 / Real.pi * (k * (Real.pi / 18000)) = k / 9000 := by field_simp; norm_num
    rw [hlinear] at hjordan
    have : (1 : ℝ) ≤ k := by exact_mod_cast hk
    linarith
  rcases Nat.le_total r 9000 with hle | hge
  · exact hquarter hpos hle
  · have hmirror : (r : ℝ) * (Real.pi / 18000) = Real.pi - (18000 - r : ℕ) * (Real.pi / 18000) := by
      rw [Nat.cast_sub (by omega)]; push_cast; ring
    rw [hmirror, Real.sin_pi_sub]
    exact hquarter (by omega) (by omega)

/-- Off the multiples of a half turn the sine is at least `1 / 9000`. -/
theorem le_abs_sin_of_code {n : Nat} (h : n % 18000 ≠ 0) : 1 / 9000 ≤ |Real.sin (n * (Real.pi / 18000))| := by
  have hsplit : (n : ℝ) * (Real.pi / 18000) = (n % 18000 : ℕ) * (Real.pi / 18000) + (n / 18000 : ℕ) * Real.pi := by
    have hn : (n : ℝ) = 18000 * (n / 18000 : ℕ) + (n % 18000 : ℕ) := by exact_mod_cast (Nat.div_add_mod n 18000).symm
    rw [hn]; ring_nf
  rw [hsplit, Real.sin_add_nat_mul_pi, abs_mul, abs_neg_one_pow, one_mul]
  exact (le_sin_of_code (by omega) (by omega)).trans (le_abs_self _)

/-- Off the odd multiples of a quarter turn the cosine is at least `1 / 9000`. -/
theorem le_abs_cos_of_code {n : Nat} (h : n % 18000 ≠ 9000) : 1 / 9000 ≤ |Real.cos (n * (Real.pi / 18000))| := by
  have hshift : (n : ℝ) * (Real.pi / 18000) + Real.pi / 2 = (n + 9000 : ℕ) * (Real.pi / 18000) := by push_cast; ring
  rw [← Real.sin_add_pi_div_two, hshift]
  exact le_abs_sin_of_code (by omega)

/-! ## The block's azimuth -/

section Azimuth

variable {hw : Hardware}

/-- The azimuth in radians is the angle of its code, but for three roundings and the error of `C_PI`. -/
theorem abs_azimuthRadians_sub_le (h : hw.SpecConstants) (n : BitVec 16) :
    |(value64 (azimuthRadians hw n) : ℝ) - n.toNat * (Real.pi / 18000)| ≤ 1 / 10 ^ 14 := by
  have hround := (azimuthRadians_relNear h n).2
  have hpi : |(value64 constPi : ℝ) - Real.pi| ≤ 13 / 10 ^ 17 := by
    obtain ⟨-, -, -, -, -, -, -, -, -, hlow, hup, -⟩ := constantsAreNearest
    exact abs_le.mpr ⟨by linarith, by linarith⟩
  have hle := code_le n
  have hconst : |(n.toNat : ℝ) * ((value64 constPi : ℝ) / 18000) - n.toNat * (Real.pi / 18000)|
      ≤ 65535 * (13 / 10 ^ 17 / 18000) := by
    rw [← mul_sub, ← sub_div, abs_mul, Nat.abs_cast, abs_div, abs_of_pos (by norm_num : (0 : ℝ) < 18000)]
    gcongr
  have hmax : |(n.toNat : ℝ) * ((value64 constPi : ℝ) / 18000)| ≤ 65535 * (4 / 18000) := by
    rw [abs_mul, Nat.abs_cast, abs_div, abs_of_pos (by norm_num : (0 : ℝ) < 18000)]
    gcongr
    exact zeroOrBetween_constPi.abs_le (by norm_num)
  unfold RelNear at hround
  refine (abs_sub_le _ ((n.toNat : ℝ) * ((value64 constPi : ℝ) / 18000)) _).trans ?_
  refine (add_le_add (hround.trans (mul_le_mul_of_nonneg_left hmax (by norm_num))) hconst).trans ?_
  norm_num

/-- What lies far from zero stays so when rounded. -/
theorem RoundedTo64.le_abs_value {v : F64} {r : ℝ} (h : RoundedTo64 v r) (hlow : 1 / 10000 ≤ |r|) (hup : |r| ≤ 1) :
    612 / 10 ^ 19 ≤ |value64 v| := by
  have hnear := (h.relNear (.inr ⟨le_trans (by norm_num) hlow, hup.trans (by norm_num)⟩)).abs_bounds.1
  rw [← Rat.cast_le (K := ℝ), Rat.cast_abs]
  refine le_trans ?_ hnear
  push_cast
  norm_num at hlow ⊢
  linarith

/-- The azimuth in radians of a code with the constants of R21 written out. -/
def specRadians (n : BitVec 16) : F64 := div64 (mul64 (div64 (toF64 n) const100) constPi) const180

theorem azimuthRadians_eq_specRadians (h : hw.SpecConstants) (n : BitVec 16) :
    azimuthRadians hw n = specRadians n := by
  rw [azimuthRadians_of_spec h, azimuthDegrees_of_spec h, specRadians]

/-- 90, 270, 450 and 630 degrees, with the cosine of each. -/
def quarterTurns : List (BitVec 16 × F64) :=
  [(9000, 0x3C91A62633145C07), (27000, 0xBCAA79394C9E8A0A), (45000, 0x3CB60FAFBFD97309), (63000, 0xBCBEE2C2D963A10C)]

/-- 180, 360 and 540 degrees, with the sine of each. -/
def halfTurns : List (BitVec 16 × F64) :=
  [(18000, 0x3CA1A62633145C07), (36000, 0xBCB1A62633145C07), (54000, 0x3CBA79394C9E8A0A)]

theorem certifiedCos_quarterTurns :
    quarterTurns.all fun p => certifiedCos (specRadians p.1) = some p.2 ∧ 612 / 10 ^ 19 ≤ |value64 p.2| := by
  decide +kernel

theorem certifiedSin_halfTurns :
    halfTurns.all fun p => certifiedSin (specRadians p.1) = some p.2 ∧ 612 / 10 ^ 19 ≤ |value64 p.2| := by
  decide +kernel

theorem exists_quarterTurn {n : BitVec 16} (h : n.toNat % 18000 = 9000) : ∃ v, (n, v) ∈ quarterTurns := by
  have hlt := n.isLt
  have hcodes : n ∈ quarterTurns.map Prod.fst := by
    simp only [quarterTurns, List.map_cons, List.map_nil, List.mem_cons, List.not_mem_nil, or_false,
      ← BitVec.toNat_inj, BitVec.ofNat_eq_ofNat, BitVec.toNat_ofNat]
    omega
  simpa using hcodes

theorem exists_halfTurn {n : BitVec 16} (h : n.toNat % 18000 = 0) (hn : n ≠ 0) : ∃ v, (n, v) ∈ halfTurns := by
  have hlt := n.isLt
  have hcodes : n ∈ halfTurns.map Prod.fst := by
    simp only [halfTurns, List.map_cons, List.map_nil, List.mem_cons, List.not_mem_nil, or_false,
      ← BitVec.toNat_inj, BitVec.ofNat_eq_ofNat, BitVec.toNat_ofNat, ne_eq] at hn ⊢
    omega
  simpa using hcodes

theorem le_abs_certifiedCos_azimuth (h : hw.SpecConstants) {n : BitVec 16} {v : F64}
    (hv : certifiedCos (azimuthRadians hw n) = some v) : 612 / 10 ^ 19 ≤ |value64 v| := by
  by_cases hn : n.toNat % 18000 = 9000
  · rw [azimuthRadians_eq_specRadians h] at hv
    obtain ⟨w, hw⟩ := exists_quarterTurn hn
    obtain ⟨hcos, hle⟩ := of_decide_eq_true (List.all_eq_true.mp certifiedCos_quarterTurns _ hw)
    rwa [Option.some_inj.mp (hv.symm.trans hcos)]
  · have hmoved := (Real.abs_cos_sub_cos_le _ _).trans (abs_azimuthRadians_sub_le h n)
    have hfar := le_abs_cos_of_code hn
    have htri := abs_sub_abs_le_abs_sub (Real.cos (n.toNat * (Real.pi / 18000)))
      (Real.cos (value64 (azimuthRadians hw n) : ℝ))
    rw [abs_sub_comm] at htri
    exact (certifiedCos_roundedTo64 hv).le_abs_value (by norm_num at *; linarith) (Real.abs_cos_le_one _)

theorem le_abs_certifiedSin_azimuth (h : hw.SpecConstants) {n : BitVec 16} {v : F64} (hn : n ≠ 0)
    (hv : certifiedSin (azimuthRadians hw n) = some v) : 612 / 10 ^ 19 ≤ |value64 v| := by
  by_cases hturn : n.toNat % 18000 = 0
  · rw [azimuthRadians_eq_specRadians h] at hv
    obtain ⟨w, hw⟩ := exists_halfTurn hturn hn
    obtain ⟨hsin, hle⟩ := of_decide_eq_true (List.all_eq_true.mp certifiedSin_halfTurns _ hw)
    rwa [Option.some_inj.mp (hv.symm.trans hsin)]
  · have hmoved := (Real.abs_sin_sub_sin_le _ _).trans (abs_azimuthRadians_sub_le h n)
    have hfar := le_abs_sin_of_code hturn
    have htri := abs_sub_abs_le_abs_sub (Real.sin (n.toNat * (Real.pi / 18000)))
      (Real.sin (value64 (azimuthRadians hw n) : ℝ))
    rw [abs_sub_comm] at htri
    exact (certifiedSin_roundedTo64 hv).le_abs_value (by norm_num at *; linarith) (Real.abs_sin_le_one _)

end Azimuth

/-- Settles O45: multiples of 90 degrees by evaluation, every other code by its distance from them. -/
theorem trigStaysAwayFromZero : Obligations.TrigStaysAwayFromZero := fun _ _ _ h =>
  ⟨le_abs_certifiedCos_azimuth h, le_abs_certifiedSin_azimuth h⟩

end Sys2Proof.Machine
end

section
/-! PROOF. The coordinates of PROJECT (`40_project.md` R87 to R90, R93, R96): products of magnitudes at most those of
the largest distance, each rounded twice. -/

namespace Sys2Proof.Machine

/-! ## No coordinate overflows (R90) -/

/-- The largest distance in metres, the binary64 value 131.07 (R83). -/
def farthest : F64 := 0x4060623D70A3D70A

theorem value64_farthest : value64 farthest = 2305807824841605 / 2 ^ 44 := by decide +kernel

theorem value64_neg_farthest : value64 0xC060623D70A3D70A = -value64 farthest := by decide +kernel

/-- A factor of at most 1 takes no number past the largest distance, rounded or not. -/
theorem within64_mul64 {a b : F64} (ha : Within64 a (value64 farthest)) (hb : Within64 b 1) :
    Within64 (mul64 a b) (value64 farthest) := by
  obtain ⟨hafin, ha⟩ := ha
  obtain ⟨hbfin, hb⟩ := hb
  have hprod : |value64 a * value64 b| ≤ value64 farthest := by
    rw [abs_mul]
    exact (mul_le_of_le_one_right (abs_nonneg _) hb).trans ha
  have hreal : |(value64 a : ℝ) * value64 b| ≤ (value64 farthest : ℝ) := by exact_mod_cast hprod
  have hsmall : ((value64 farthest : ℚ) : ℝ) ≤ 10 ^ 30 := by rw [value64_farthest]; norm_num
  have hround := mul64_roundedTo64 hafin hbfin (hreal.trans hsmall)
  obtain ⟨hlow, hup⟩ := abs_le.mp hreal
  have hlow' := hround.le_value (c := 0xC060623D70A3D70A) (by decide)
    (by rw [value64_neg_farthest, Rat.cast_neg]; exact hlow)
  rw [value64_neg_farthest] at hlow'
  exact ⟨hround.1, abs_le.mpr ⟨hlow', hround.value_le (by decide) hup⟩⟩

/-- Narrowing takes such a number at most to the next binary32 value. -/
theorem within32_narrow32 {v : F64} (hv : Within64 v (value64 farthest)) :
    Within32 (narrow32 v) (1310701 / 10000) := by
  obtain ⟨hfin, hv⟩ := hv
  have hreal : |(value64 v : ℝ)| ≤ (value64 farthest : ℝ) := by exact_mod_cast hv
  rw [value64_farthest] at hreal
  have hround := narrow32_roundedTo32 hfin (hreal.trans (by norm_num))
  have hnext : value32 0x430311EC = 8589804 / 2 ^ 16 ∧ value32 0xC30311EC = -(8589804 / 2 ^ 16) := by decide +kernel
  obtain ⟨hpos, hneg⟩ := hnext
  obtain ⟨hlow, hup⟩ := abs_le.mp hreal
  have hlow' := hround.le_value (c := 0xC30311EC) (by decide) (le_trans (by rw [hneg]; norm_num) hlow)
  have hup' := hround.value_le (c := 0x430311EC) (by decide) (hup.trans (by rw [hpos]; norm_num))
  rw [hneg] at hlow'
  rw [hpos] at hup'
  exact ⟨hround.1, abs_le.mpr ⟨le_trans (by norm_num) hlow', hup'.trans (by norm_num)⟩⟩

theorem within32_zero : Within32 0 (1310701 / 10000) := by
  refine ⟨by decide, ?_⟩
  rw [value32_zero, abs_zero]
  norm_num

section Coordinates

variable {hw : Hardware}

theorem within64_distanceMetres (h : hw.SpecConstants) (n : BitVec 16) :
    Within64 (distanceMetres hw n) (value64 farthest) := by
  have hpos : value64 0 ≤ value64 (distanceMetres hw n) := by
    refine (roundedTo64_distanceMetres h n).le_value (by decide) ?_
    rw [value64_zero, value64_constScale, Rat.cast_zero]
    positivity
  rw [value64_zero] at hpos
  exact ⟨finite64_distanceMetres h n, (abs_of_nonneg hpos).trans_le (distanceMetres_le h n)⟩

theorem within64_horizontalRange (h : hw.SpecConstants) {ch : BitVec 5} (n : BitVec 16)
    (hcos : Within64 (romRead hw (romIndex ch)).cos 1) : Within64 (horizontalRange hw ch n) (value64 farthest) :=
  within64_mul64 (within64_distanceMetres h n) hcos

/-! ## Azimuth 0 (R96) -/

theorem sign64_mul64 {a b : F64} (ha : finite64 a = true) (hb : finite64 b = true) :
    sign64 (mul64 a b) = (sign64 a != sign64 b) := by
  rw [mul64_of_finite ha hb, sign64_round64]

theorem sign64_eq_false_of_pos {v : F64} (h : 0 < value64 v) : sign64 v = false := by
  rw [value64_eq] at h
  have hmag : (0 : ℚ) ≤ numerator64 v / denominator64 v := by positivity
  cases hs : sign64 v with
  | false => rfl
  | true => rw [hs, signFactor_true] at h; linarith

/-- A positive factor and +0 give +0. -/
theorem mul64_zero {a : F64} (ha : finite64 a = true) (hs : sign64 a = false) : mul64 a 0 = 0 := by
  have hzero : (value64 a : ℝ) * (value64 0 : ℝ) = (value64 0 : ℝ) := by rw [value64_zero, Rat.cast_zero, mul_zero]
  have hround := mul64_roundedTo64 ha (b := 0) (by decide)
    (by rw [hzero, value64_zero, Rat.cast_zero, abs_zero]; positivity)
  rw [hzero] at hround
  exact eq_of_sign64_eq_of_value64_eq (by rw [sign64_mul64 ha (by decide), hs]; decide) (hround.value_eq (by decide))

/-- A factor of exactly 1 changes nothing. -/
theorem mul64_one {a : F64} (ha : Within64 a (value64 farthest)) : mul64 a 0x3FF0000000000000 = a := by
  obtain ⟨hfin, ha⟩ := ha
  have hone : (value64 0x3FF0000000000000 : ℚ) = 1 := by decide +kernel
  have hsmall : value64 farthest ≤ 10 ^ 30 := by rw [value64_farthest]; norm_num
  have hround := mul64_roundedTo64 hfin (b := 0x3FF0000000000000) (by decide)
    (by rw [hone, Rat.cast_one, mul_one]; exact_mod_cast ha.trans hsmall)
  rw [hone, Rat.cast_one, mul_one] at hround
  refine eq_of_sign64_eq_of_value64_eq ?_ (hround.value_eq hfin)
  rw [sign64_mul64 hfin (by decide), show sign64 0x3FF0000000000000 = false by decide, Bool.bne_false]

theorem trigCR_sin64_zero : trigCR.sin64 0 = 0 := by decide +kernel

theorem trigCR_cos64_zero : trigCR.cos64 0 = 0x3FF0000000000000 := by decide +kernel

/-- At azimuth 0 the sine is +0, and so is x. -/
theorem respondTo_x_of_az_zero {r : Request} (h : hw.SpecConstants) (haz : r.az = 0) (hdist : r.dist ≠ 0)
    (hcos : Within64 (romRead hw (romIndex r.ch)).cos 1) (hpos : 0 < value64 (romRead hw (romIndex r.ch)).cos) :
    (respondTo hw r).x = 0 := by
  have hd := within64_distanceMetres h r.dist
  have hscale : 0 < value64 constScale := by rw [value64_constScale]; norm_num
  have hsign : sign64 (horizontalRange hw r.ch r.dist) = false := by
    rw [horizontalRange, sign64_mul64 hd.1 hcos.1, sign64_eq_false_of_pos hpos,
      sign64_eq_false_of_pos (hscale.trans_le (constScale_le_distanceMetres h hdist))]
    rfl
  have hsin : trigCR.sin64 (azimuthRadians hw r.az) = 0 := by rw [haz, azimuthRadians_zero h, trigCR_sin64_zero]
  rw [respondTo, project_of_ne_zero _ _ _ hdist]
  simp only [xCoordinate, hsin]
  rw [mul64_zero (within64_horizontalRange h r.dist hcos).1 hsign]
  decide +kernel

end Coordinates

/-- Settles O44: at most two products by factors of at most 1, then a narrowing. -/
theorem resultsAreFiniteAndBounded : Obligations.ResultsAreFiniteAndBounded := by
  intro T hw r h hcv hsv hsa hca
  by_cases h0 : r.dist = 0
  · rw [project_zero T hw r h0]
    exact ⟨within32_zero, within32_zero, within32_zero⟩
  · have hd := within64_distanceMetres h r.dist
    rw [project_of_ne_zero T hw r h0]
    have hxy := within64_horizontalRange h r.dist hcv
    exact ⟨within32_narrow32 (within64_mul64 hxy hsa), within32_narrow32 (within64_mul64 hxy hca),
      within32_narrow32 (within64_mul64 hd hsv)⟩

/-- Settles O35: the sine of angle 0 is +0 and its cosine exactly 1. -/
theorem azimuthZeroLiesOnY : Obligations.AzimuthZeroLiesOnY := by
  intro hw r h haz hdist hcos hpos
  refine ⟨respondTo_x_of_az_zero h haz hdist hcos hpos, ?_⟩
  have hone : trigCR.cos64 (azimuthRadians hw r.az) = 0x3FF0000000000000 := by
    rw [haz, azimuthRadians_zero h, trigCR_cos64_zero]
  rw [respondTo, project_of_ne_zero _ _ _ hdist]
  simp only [yCoordinate, hone]
  rw [mul64_one (within64_horizontalRange h r.dist hcos)]

/-! ## The relative error of a coordinate -/

/-- A product, rounded and then narrowed. -/
theorem relNear_narrow32_mul64 {a b : F64} (ha : finite64 a = true) (hb : finite64 b = true)
    (h : ZeroOrBetween (1 / 10 ^ 20) 1000 ((value64 a : ℝ) * value64 b)) :
    finite32 (narrow32 (mul64 a b)) = true ∧
    RelNear (1 / 2 ^ 24 + 2 / 2 ^ 53) (value32 (narrow32 (mul64 a b))) (value64 a * value64 b) := by
  have hmul := mul64_roundedTo64 ha hb ((h.abs_le (by norm_num)).trans (by norm_num))
  have hnear := hmul.relNear (h.mono (by norm_num) (by norm_num))
  have hrange := h.of_relNear (by norm_num) (by norm_num) hnear
  have hnarrow := narrow32_roundedTo32 hmul.1 ((hrange.abs_le (by norm_num)).trans (by norm_num))
  exact ⟨hnarrow.1, ((hnarrow.relNear (hrange.mono (by norm_num) (by norm_num))).trans (by norm_num) hnear).mono
    (by norm_num)⟩

/-- A rounded number that is far from zero is one that is in range. -/
theorem RoundedTo64.relNear_of_le_abs_value {v : F64} {r : ℝ} (h : RoundedTo64 v r) (hr : |r| ≤ 1)
    (hv : 612 / 10 ^ 19 ≤ |value64 v|) : RelNear (1 / 2 ^ 53) (value64 v) r := by
  refine h.relNear (.inr ⟨?_, hr.trans (by norm_num)⟩)
  by_contra hlt
  have herr := h.abs_sub_le (hr.trans (by norm_num))
  have hmax : max |r| (1 / 10 ^ 50) ≤ 1 / 10 ^ 30 := max_le (not_le.mp hlt).le (by norm_num)
  have herr' := herr.trans (div_le_div_of_nonneg_right hmax (by positivity))
  have htri := abs_sub_abs_le_abs_sub (value64 v : ℝ) r
  rw [← Rat.cast_le (K := ℝ), Rat.cast_abs] at hv
  push_cast at hv
  norm_num at hv hlt herr'
  linarith

end Sys2Proof.Machine
end

section
/-! PROOF. The coordinates with certified sine and cosine: the Pythagorean tolerance (`40_project.md` R93) and the
bounds of the default block (R90). -/

namespace Sys2Proof.Machine

/-! ## Bounds of magnitudes through the products -/

theorem AbsBetween.zeroOrBetween {lo hi x : ℚ} (h : AbsBetween lo hi x) : ZeroOrBetween (lo : ℝ) hi x :=
  .inr (by exact_mod_cast h)

theorem AbsBetween.of_relNear {lo hi ε y x : ℚ} (h : AbsBetween lo hi x) (hε : 0 ≤ ε) (hε' : ε ≤ 1)
    (hy : RelNear ε y x) : AbsBetween ((1 - ε) * lo) ((1 + ε) * hi) y := by
  have hreal : AbsBetween (lo : ℝ) hi x := by exact_mod_cast h
  exact_mod_cast hy.absBetween (by exact_mod_cast hε) (by exact_mod_cast hε') hreal

theorem zeroOrBetween_product {a b : F64} {lo hi : ℚ} (h : AbsBetween lo hi (value64 a * value64 b))
    (hlo : 1 / 10 ^ 20 ≤ lo) (hhi : hi ≤ 1000) :
    ZeroOrBetween (1 / 10 ^ 20) 1000 ((value64 a : ℝ) * value64 b) := by
  have hrange := (h.mono hlo hhi).zeroOrBetween
  push_cast at hrange
  exact hrange

theorem mul64_absBetween {a b : F64} {lo hi : ℚ} (ha : finite64 a = true) (hb : finite64 b = true)
    (h : AbsBetween lo hi (value64 a * value64 b)) (hlo : 1 / 10 ^ 20 ≤ lo) (hhi : hi ≤ 1000) :
    finite64 (mul64 a b) = true ∧
    AbsBetween ((1 - 1 / 2 ^ 53) * lo) ((1 + 1 / 2 ^ 53) * hi) (value64 (mul64 a b)) := by
  have hrange := zeroOrBetween_product h hlo hhi
  have hround := mul64_roundedTo64 ha hb ((hrange.abs_le (by norm_num)).trans (by norm_num))
  have hnear := hround.relNear (hrange.mono (by norm_num) (by norm_num))
  exact ⟨hround.1, h.of_relNear (by norm_num) (by norm_num) (by push_cast; exact hnear)⟩

theorem narrow32_mul64_absBetween {a b : F64} {lo hi : ℚ} (ha : finite64 a = true) (hb : finite64 b = true)
    (h : AbsBetween lo hi (value64 a * value64 b)) (hlo : 1 / 10 ^ 20 ≤ lo) (hhi : hi ≤ 1000) :
    finite32 (narrow32 (mul64 a b)) = true ∧
    AbsBetween ((1 - (1 / 2 ^ 24 + 2 / 2 ^ 53)) * lo) ((1 + (1 / 2 ^ 24 + 2 / 2 ^ 53)) * hi)
      (value32 (narrow32 (mul64 a b))) := by
  have hrange := zeroOrBetween_product h hlo hhi
  obtain ⟨hfin, hnear⟩ := relNear_narrow32_mul64 ha hb hrange
  exact ⟨hfin, h.of_relNear (by norm_num) (by norm_num) (by push_cast; exact hnear)⟩

/-! ## Certified sine and cosine of the azimuth -/

theorem trigCR_sin64_of_certified {a v : F64} (h : certifiedSin a = some v) : trigCR.sin64 a = v := by
  have hsin : trigCR.sin64 a = (certifiedSin a).getD (Config.sinUnstated a) := rfl
  rw [hsin, h, Option.getD_some]

theorem trigCR_cos64_of_certified {a v : F64} (h : certifiedCos a = some v) : trigCR.cos64 a = v := by
  have hcos : trigCR.cos64 a = (certifiedCos a).getD (Config.cosUnstated a) := rfl
  rw [hcos, h, Option.getD_some]

section Certified

variable {hw : Hardware} {n : BitVec 16} {v : F64}

theorem certifiedSin_azimuth_relNear (h : hw.SpecConstants) (hv : certifiedSin (azimuthRadians hw n) = some v) :
    RelNear (1 / 2 ^ 53) (value64 v) (Real.sin (value64 (azimuthRadians hw n) : ℝ)) := by
  have hround := certifiedSin_roundedTo64 hv
  by_cases hn : n = 0
  · refine hround.relNear (.inl ?_)
    rw [hn, azimuthRadians_zero h, value64_zero, Rat.cast_zero, Real.sin_zero]
  · exact hround.relNear_of_le_abs_value (Real.abs_sin_le_one _) (le_abs_certifiedSin_azimuth h hn hv)

theorem certifiedCos_azimuth_relNear (h : hw.SpecConstants) (hv : certifiedCos (azimuthRadians hw n) = some v) :
    RelNear (1 / 2 ^ 53) (value64 v) (Real.cos (value64 (azimuthRadians hw n) : ℝ)) :=
  (certifiedCos_roundedTo64 hv).relNear_of_le_abs_value (Real.abs_cos_le_one _) (le_abs_certifiedCos_azimuth h hv)

/-- A certified value is at most 1. -/
theorem RoundedTo64.abs_value_le_one {r : ℝ} (h : RoundedTo64 v r) (hr : |r| ≤ 1) : |value64 v| ≤ 1 := by
  have hone : value64 0x3FF0000000000000 = 1 ∧ value64 0xBFF0000000000000 = -1 := by decide +kernel
  obtain ⟨hpos, hneg⟩ := hone
  obtain ⟨hlow, hup⟩ := abs_le.mp hr
  have hlow' := h.le_value (c := 0xBFF0000000000000) (by decide) (by rw [hneg]; exact_mod_cast hlow)
  have hup' := h.value_le (c := 0x3FF0000000000000) (by decide) (by rw [hpos]; exact_mod_cast hup)
  exact abs_le.mpr ⟨hneg ▸ hlow', hpos ▸ hup'⟩

theorem absBetween_certifiedSin_azimuth (h : hw.SpecConstants) (hn : n ≠ 0)
    (hv : certifiedSin (azimuthRadians hw n) = some v) : AbsBetween (612 / 10 ^ 19) 1 (value64 v) :=
  ⟨le_abs_certifiedSin_azimuth h hn hv, (certifiedSin_roundedTo64 hv).abs_value_le_one (Real.abs_sin_le_one _)⟩

theorem absBetween_certifiedCos_azimuth (h : hw.SpecConstants) (hv : certifiedCos (azimuthRadians hw n) = some v) :
    AbsBetween (612 / 10 ^ 19) 1 (value64 v) :=
  ⟨le_abs_certifiedCos_azimuth h hv, (certifiedCos_roundedTo64 hv).abs_value_le_one (Real.abs_cos_le_one _)⟩

/-- Code 0 gives the sine 0. -/
theorem value64_certifiedSin_azimuth_zero (h : hw.SpecConstants) (hv : certifiedSin (azimuthRadians hw 0) = some v) :
    value64 v = 0 := by
  have hround := certifiedSin_roundedTo64 hv
  rw [azimuthRadians_zero h, value64_zero, Rat.cast_zero, Real.sin_zero, ← Rat.cast_zero, ← value64_zero] at hround
  rw [hround.value_eq (by decide), value64_zero]

theorem zeroOrBetween_certifiedSin_azimuth (h : hw.SpecConstants)
    (hv : certifiedSin (azimuthRadians hw n) = some v) :
    ZeroOrBetween ((612 / 10 ^ 19 : ℚ) : ℝ) ((1 : ℚ) : ℝ) (value64 v) := by
  by_cases hn : n = 0
  · subst hn
    exact .inl (by rw [value64_certifiedSin_azimuth_zero h hv, Rat.cast_zero])
  · exact (absBetween_certifiedSin_azimuth h hn hv).zeroOrBetween

end Certified

/-! ## The coordinates -/

section Coordinates

variable {hw : Hardware} {r : Request} {sa ca : F64}

theorem respondTo_of_certified (hdist : r.dist ≠ 0) (hsa : certifiedSin (azimuthRadians hw r.az) = some sa)
    (hca : certifiedCos (azimuthRadians hw r.az) = some ca) :
    (respondTo hw r).x = narrow32 (mul64 (horizontalRange hw r.ch r.dist) sa) ∧
    (respondTo hw r).y = narrow32 (mul64 (horizontalRange hw r.ch r.dist) ca) ∧
    (respondTo hw r).z =
      narrow32 (mul64 (distanceMetres hw r.dist) (romRead hw (romIndex r.ch)).sin) := by
  rw [respondTo, project_of_ne_zero _ _ _ hdist, ← trigCR_sin64_of_certified hsa, ← trigCR_cos64_of_certified hca]
  exact ⟨rfl, rfl, rfl⟩

theorem absBetween_distanceMetres (h : hw.SpecConstants) {n : BitVec 16} (hn : n ≠ 0) :
    AbsBetween (2 / 1000) (13107 / 100) (value64 (distanceMetres hw n)) := by
  have hscale : 2 / 1000 ≤ value64 constScale := by rw [value64_constScale]; norm_num
  have hfar : value64 farthest ≤ 13107 / 100 := by rw [value64_farthest]; norm_num
  exact ⟨(hscale.trans (constScale_le_distanceMetres h hn)).trans (le_abs_self _),
    (within64_distanceMetres h n).2.trans hfar⟩

/-- The horizontal range, from the bounds of the ROM's cosine (R87). -/
theorem absBetween_horizontalRange (h : hw.SpecConstants) {ch : BitVec 5} {n : BitVec 16} (hn : n ≠ 0) {lo hi : ℚ}
    (hlo : 9 / 10 ≤ lo) (hhi : hi ≤ 1) (hfin : finite64 (romRead hw (romIndex ch)).cos = true)
    (hcos : AbsBetween lo hi (value64 (romRead hw (romIndex ch)).cos)) :
    finite64 (horizontalRange hw ch n) = true ∧
    AbsBetween ((1 - 1 / 2 ^ 53) * (2 / 1000 * lo)) ((1 + 1 / 2 ^ 53) * (13107 / 100 * hi))
      (value64 (horizontalRange hw ch n)) :=
  mul64_absBetween (finite64_distanceMetres h n) hfin
    ((absBetween_distanceMetres h hn).mul (by norm_num) (by linarith) hcos) (by norm_num; linarith) (by linarith)

/-! ## The Pythagorean tolerance (R93) -/

/-- A coordinate of the horizontal plane is the horizontal range times the true sine or cosine, but for three
roundings. -/
theorem relNear_horizontalCoordinate {xy s : F64} {t : ℝ} (hxy : finite64 xy = true) (hs : finite64 s = true)
    (hrange : AbsBetween (1 / 1000) 132 (value64 xy))
    (hsrange : ZeroOrBetween ((612 / 10 ^ 19 : ℚ) : ℝ) ((1 : ℚ) : ℝ) (value64 s))
    (hst : RelNear (1 / 2 ^ 53) (value64 s) t) :
    RelNear (1 / 2 ^ 24 + 4 / 2 ^ 53) (value32 (narrow32 (mul64 xy s))) (value64 xy * t) := by
  have hxyrange := hrange.zeroOrBetween
  push_cast at hxyrange hsrange
  obtain ⟨-, hnear⟩ := relNear_narrow32_mul64 hxy hs
    ((hxyrange.mul (by norm_num) (by norm_num) hsrange).mono (by norm_num) (by norm_num))
  exact (hnear.trans (by norm_num) (hst.mul_left _)).mono (by norm_num)

/-- Errors of a relative size `ε` in both legs change the sum of the squares by about twice that. -/
theorem abs_sq_add_sq_sub_sq_le {x y c a ε : ℝ} (hx : RelNear ε x (c * Real.sin a))
    (hy : RelNear ε y (c * Real.cos a)) : |x ^ 2 + y ^ 2 - c ^ 2| ≤ (2 * ε + ε ^ 2) * c ^ 2 := by
  have hlegs : (c * Real.sin a) ^ 2 + (c * Real.cos a) ^ 2 = c ^ 2 := by
    rw [mul_pow, mul_pow, ← mul_add, Real.sin_sq_add_cos_sq, mul_one]
  calc |x ^ 2 + y ^ 2 - c ^ 2| = |(x ^ 2 - (c * Real.sin a) ^ 2) + (y ^ 2 - (c * Real.cos a) ^ 2)| := by
        rw [← hlegs]; ring_nf
    _ ≤ (2 * ε + ε ^ 2) * (c * Real.sin a) ^ 2 + (2 * ε + ε ^ 2) * (c * Real.cos a) ^ 2 :=
        (abs_add_le _ _).trans (add_le_add hx.sq hy.sq)
    _ = (2 * ε + ε ^ 2) * c ^ 2 := by rw [← mul_add, hlegs]

end Coordinates

/-- Settles O47: both coordinates are within `2^-24` (and a little) of the true legs, and twice that is below
`1.2e-7`. -/
theorem pythagoreanWithinTolerance : Obligations.PythagoreanWithinTolerance := by
  intro hw r h hdist hcos hlow hsin hcos'
  obtain ⟨sa, hsa⟩ := Option.isSome_iff_exists.mp hsin
  obtain ⟨ca, hca⟩ := Option.isSome_iff_exists.mp hcos'
  obtain ⟨hx, hy, -⟩ := respondTo_of_certified hdist hsa hca
  obtain ⟨hxyfin, hxy⟩ := absBetween_horizontalRange h (n := r.dist) hdist le_rfl le_rfl hcos.1
    ⟨hlow.le.trans (le_abs_self _), hcos.2⟩
  have hxy' := hxy.mono (lo' := 1 / 1000) (hi' := 132) (by norm_num) (by norm_num)
  have hlegs := abs_sq_add_sq_sub_sq_le
    (relNear_horizontalCoordinate hxyfin (certifiedSin_roundedTo64 hsa).1 hxy'
      (zeroOrBetween_certifiedSin_azimuth h hsa) (certifiedSin_azimuth_relNear h hsa))
    (relNear_horizontalCoordinate hxyfin (certifiedCos_roundedTo64 hca).1 hxy'
      (absBetween_certifiedCos_azimuth h hca).zeroOrBetween (certifiedCos_azimuth_relNear h hca))
  have hlegs' := hlegs.trans (mul_le_mul_of_nonneg_right (b := (2 * (1 / 2 ^ 24 + 4 / 2 ^ 53)
    + (1 / 2 ^ 24 + 4 / 2 ^ 53) ^ 2 : ℝ)) (c := 12 / 100000000) (by norm_num) (sq_nonneg _))
  rw [hx, hy, ← Rat.cast_le (K := ℝ)]
  push_cast
  exact hlegs'

/-! ## The default block (R90) -/

/-- The cosines of the default table, and that they are positive (R86). -/
theorem cos_defaultTable : Config.vangle.all fun a =>
    finite64 (romEntry trigCR a).cos ∧ 96592582 / 10 ^ 8 ≤ value64 (romEntry trigCR a).cos ∧
      value64 (romEntry trigCR a).cos ≤ 9998477 / 10 ^ 7 := by
  decide +kernel

/-- The sines of the default table; none is zero (R86). -/
theorem sin_defaultTable : Config.vangle.all fun a =>
    finite64 (romEntry trigCR a).sin ∧
      AbsBetween (174524 / 10 ^ 7) (25881905 / 10 ^ 8) (value64 (romEntry trigCR a).sin) := by
  decide +kernel

section DefaultBlock

variable (latency : Nat) (ch : BitVec 5)

theorem romRead_cos_defaultBlock :
    Within64 (romRead (buildHardware trigCR Config.vangle latency) (romIndex ch)).cos 1 ∧
    0 < value64 (romRead (buildHardware trigCR Config.vangle latency) (romIndex ch)).cos ∧
    AbsBetween (96592582 / 10 ^ 8) (9998477 / 10 ^ 7)
      (value64 (romRead (buildHardware trigCR Config.vangle latency) (romIndex ch)).cos) := by
  rw [romRead_buildHardware]
  obtain ⟨hfin, hlow, hup⟩ := of_decide_eq_true (Vector.all_eq_true.mp cos_defaultTable _ (romIndex ch).isLt)
  have hpos := lt_of_lt_of_le (by norm_num : (0 : ℚ) < 96592582 / 10 ^ 8) hlow
  rw [Within64, AbsBetween, abs_of_pos hpos]
  exact ⟨⟨hfin, hup.trans (by norm_num)⟩, hpos, hlow, hup⟩

theorem romRead_sin_defaultBlock :
    finite64 (romRead (buildHardware trigCR Config.vangle latency) (romIndex ch)).sin = true ∧
    AbsBetween (174524 / 10 ^ 7) (25881905 / 10 ^ 8)
      (value64 (romRead (buildHardware trigCR Config.vangle latency) (romIndex ch)).sin) := by
  rw [romRead_buildHardware]
  exact of_decide_eq_true (Vector.all_eq_true.mp sin_defaultTable _ (romIndex ch).isLt)

theorem horizontalRange_defaultBlock {n : BitVec 16} (hn : n ≠ 0) :
    finite64 (horizontalRange (buildHardware trigCR Config.vangle latency) ch n) = true ∧
    AbsBetween (19318 / 10 ^ 7) (13105004 / 10 ^ 5)
      (value64 (horizontalRange (buildHardware trigCR Config.vangle latency) ch n)) := by
  obtain ⟨⟨hfin, -⟩, -, hcos⟩ := romRead_cos_defaultBlock latency ch
  obtain ⟨hxyfin, hxy⟩ := absBetween_horizontalRange (specConstants_buildHardware _ _ latency) hn (by norm_num)
    (by norm_num) hfin hcos
  exact ⟨hxyfin, hxy.mono (by norm_num) (by norm_num)⟩

end DefaultBlock

/-- A binary32 result within bounds far above the subnormal range. -/
theorem zeroOrNormalIn_of_absBetween {v : F32} {lo hi : ℚ} (hfin : finite32 v = true)
    (h : AbsBetween lo hi (value32 v)) (hlo : 1 / 10 ^ 30 ≤ lo) : ZeroOrNormalIn v lo hi :=
  ⟨hfin, .inr ⟨exponent32_ne_zero (hlo.trans h.1), h⟩⟩

/-- A coordinate of the horizontal plane, where the sine or cosine of the azimuth is not zero. -/
theorem zeroOrNormalIn_horizontalCoordinate {xy s : F64} (hxy : finite64 xy = true) (hs : finite64 s = true)
    (hrange : AbsBetween (19318 / 10 ^ 7) (13105004 / 10 ^ 5) (value64 xy))
    (hsrange : AbsBetween (612 / 10 ^ 19) 1 (value64 s)) :
    ZeroOrNormalIn (narrow32 (mul64 xy s)) (118 / 10 ^ 21) (1310501 / 10000) := by
  obtain ⟨hfin, h⟩ := narrow32_mul64_absBetween hxy hs (hrange.mul (by norm_num) (by norm_num) hsrange) (by norm_num)
    (by norm_num)
  exact zeroOrNormalIn_of_absBetween hfin (h.mono (by norm_num) (by norm_num)) (by norm_num)

/-- Settles O46: the bounds of the table, of the distance and of the azimuth's sine and cosine, multiplied; at azimuth 0
x is +0. -/
theorem defaultBlockResultBounds : Obligations.DefaultBlockResultBounds := by
  intro latency r hdist hsin hcos
  obtain ⟨sa, hsa⟩ := Option.isSome_iff_exists.mp hsin
  obtain ⟨ca, hca⟩ := Option.isSome_iff_exists.mp hcos
  have hspec := specConstants_buildHardware trigCR Config.vangle latency
  obtain ⟨hx, hy, hz⟩ := respondTo_of_certified hdist hsa hca
  obtain ⟨hxyfin, hxy⟩ := horizontalRange_defaultBlock latency r.ch hdist
  obtain ⟨hsinfin, hsinrange⟩ := romRead_sin_defaultBlock latency r.ch
  refine ⟨?_, ?_, ?_⟩
  · by_cases haz : r.az = 0
    · obtain ⟨hone, hpos, -⟩ := romRead_cos_defaultBlock latency r.ch
      rw [respondTo_x_of_az_zero hspec haz hdist hone hpos]
      exact ⟨by decide, .inl rfl⟩
    · rw [hx]
      exact zeroOrNormalIn_horizontalCoordinate hxyfin (certifiedSin_roundedTo64 hsa).1 hxy
        (absBetween_certifiedSin_azimuth hspec haz hsa)
  · rw [hy]
    exact zeroOrNormalIn_horizontalCoordinate hxyfin (certifiedCos_roundedTo64 hca).1 hxy
      (absBetween_certifiedCos_azimuth hspec hca)
  · obtain ⟨hfin, hbounds⟩ := narrow32_mul64_absBetween (finite64_distanceMetres hspec r.dist) hsinfin
      ((absBetween_distanceMetres hspec hdist).mul (by norm_num) (by norm_num) hsinrange) (by norm_num) (by norm_num)
    rw [hz]
    have hrange := hbounds.mono (lo' := 349 / 10 ^ 7) (hi' := 3392342 / 100000) (by norm_num) (by norm_num)
    refine ⟨zeroOrNormalIn_of_absBetween hfin hrange (by norm_num), fun h0 => ?_⟩
    rw [h0, AbsBetween, value32_zero] at hrange
    norm_num at hrange

end Sys2Proof.Machine
end

section
/-! PROOF. PROJECT as an operation (`40_project.md` R80 to R82, R91, R92, R94, R97): its pseudocode, what its response
depends on, and what an accepted request does to the block (`10_state.md` R28, `70_reset_and_hazards.md` R135, R136). -/

namespace Sys2Proof.Machine

/-! ## What a response is, and what it depends on -/

/-- The latency is in no stage of the datapath (R91). -/
theorem project_withLatency (T : Trig) (hw : Hardware) (latency : Nat) (r : Request) :
    project T { hw with latency := latency } r = project T hw r := rfl

/-- Of the channel a response depends on the ROM index alone (R82, R91). -/
theorem project_congr (T : Trig) (hw : Hardware) {r r' : Request} (hch : romIndex r.ch = romIndex r'.ch)
    (haz : r.az = r'.az) (hdist : r.dist = r'.dist) : project T hw r = project T hw r' := by
  by_cases h0 : r.dist = 0
  · rw [project_zero T hw r h0, project_zero T hw r' (hdist ▸ h0)]
  · rw [project_of_ne_zero T hw r h0, project_of_ne_zero T hw r' (hdist ▸ h0)]
    simp only [xCoordinate, yCoordinate, zCoordinate, horizontalRange, hch, haz, hdist]

/-- The source's worked example (R80), in the block of latency 0. -/
theorem project_workedExample : respondTo (buildHardware trigCR Config.vangle 0) ⟨0, 0, 5000⟩ =
    { point := true, x := 0x00000000, y := 0x411A8C52, z := 0xC025A4EA } := by decide +kernel

/-- Settles O30: a case split on the distance; the worked example at one latency is that at every latency. -/
theorem projectFollowsPseudocode : Obligations.ProjectFollowsPseudocode := by
  refine ⟨fun T hw ch az dist h => ?_, fun latency => ?_⟩
  · intro d azdeg azr e xy
    have hd : distanceMetres hw dist = d := distanceMetres_of_spec h dist
    have hazr : azimuthRadians hw az = azr := azimuthRadians_eq_specRadians h az
    by_cases h0 : dist = 0
    · rw [project_zero T hw _ h0, if_pos h0]; rfl
    · rw [project_of_ne_zero T hw _ h0, if_neg h0]
      simp only [xCoordinate, yCoordinate, zCoordinate, horizontalRange, hd, hazr]
      rfl
  · exact (project_withLatency trigCR (buildHardware trigCR Config.vangle 0) latency _).trans project_workedExample

/-- Settles O31: `project_zero`, with the three words of `noPoint`. -/
theorem zeroDistanceIsNoPoint : Obligations.ZeroDistanceIsNoPoint := fun T hw _ _ => project_zero T hw _ rfl

/-- Settles O32: a zero distance gives `noPoint`, any other a point. -/
theorem onlyZeroDistanceIsDropped : Obligations.OnlyZeroDistanceIsDropped := by
  intro T hw r
  by_cases h0 : r.dist = 0
  · rw [project_zero T hw r h0, h0]
    exact ⟨fun _ => rfl, fun _ => rfl⟩
  · rw [project_of_ne_zero T hw r h0]
    exact ⟨fun h => Bool.noConfusion h, fun h => absurd (BitVec.eq_of_toNat_eq h) h0⟩

theorem romIndex_add_16 (ch : BitVec 5) : romIndex (ch + 16) = romIndex ch := by
  have h16 : (16 : BitVec 5).toNat = 16 := rfl
  refine BitVec.eq_of_toNat_eq ?_
  rw [romIndex_toNat, romIndex_toNat, BitVec.toNat_add, h16]
  omega

/-- Settles O33: both channels have the same ROM index. -/
theorem firingGroupAffectsNothing : Obligations.FiringGroupAffectsNothing := fun T hw ch _ _ _ =>
  project_congr T hw (romIndex_add_16 ch).symm rfl rfl

/-- Settles O34: the z of a point, with the constant `C_SCALE` in its distance. -/
theorem zIsBitExact : Obligations.ZIsBitExact := by
  intro T hw r h hdist
  rw [project_of_ne_zero T hw r hdist, zCoordinate, distanceMetres_of_spec h]
  rfl

/-! ## An accepted request -/

theorem acceptedRequest_of_accepted {c : HostCycle} (h : c.accepted = true) : c.acceptedRequest = some c.request :=
  if_pos h

/-- After an edge at which `r` leaves the pipeline, the port shows the response to `r` (R29). -/
theorem port_clockEdge_of_leaving {s : State} (hs : s.settled = true) (hpos : 1 ≤ s.hw.latency) {req : Option Request}
    {r : Request} (h : leaving s req = some r) :
    (clockEdge s req).port = { valid := true, response := respondTo s.hw r } := by
  rw [port_of_one_le (by rwa [clockEdge_hw]), clockEdge_rspValid hs, clockEdge_registers hs, h]
  rfl

/-- A request in the last stage is on the port after the next edge without reset (R28, R29). -/
theorem port_edge_of_lastStage {s : State} (hwf : s.Wf) (hs : s.settled = true) (h : 2 ≤ s.hw.latency)
    (hrst : (currentCycle s).rst = false) {r : Request} (hlast : s.stages[s.hw.latency - 2]? = some (some r)) :
    (edge s).port = { valid := true, response := respondTo s.hw r } := by
  have hlen : s.stages.length = s.hw.latency - 1 := hwf.1
  rw [edge_of_not_rst hrst]
  refine port_clockEdge_of_leaving hs (by omega) ?_
  rw [leaving_of_two_le hwf h, List.getLast?_eq_getElem?, hlen, show s.hw.latency - 1 - 1 = s.hw.latency - 2 by omega,
    hlast]
  rfl

/-- R135: an accepted request is presented `P_LATENCY` cycles later, if no reset falls between. -/
theorem port_iterate_edge_of_accepted {s : State} (hwf : s.Wf) (hs : s.settled = true)
    (hacc : (currentCycle s).accepted = true)
    (hrst : ∀ i, 1 ≤ i → i < s.hw.latency → (cycleAt s.host i).rst = false) :
    (edge^[s.hw.latency] s).port = { valid := true, response := respondTo s.hw (currentCycle s).request } := by
  have hnow := HostCycle.rst_eq_false_of_accepted hacc
  have hreq := acceptedRequest_of_accepted hacc
  rcases Nat.lt_or_ge s.hw.latency 2 with hlt | hge
  · rcases Nat.le_one_iff_eq_zero_or_eq_one.mp (Nat.le_of_lt_succ hlt) with h0 | h1
    · rw [h0, Function.iterate_zero_apply, State.port, hreq, portWith_of_zero h0]
    · rw [h1, Function.iterate_one, edge_of_not_rst hnow, hreq]
      exact port_clockEdge_of_leaving hs (by omega) (leaving_of_one h1 _)
  · obtain ⟨k, hk⟩ := Nat.exists_eq_add_of_le' hge
    obtain ⟨t, hrun, hstage⟩ := requestOccupiesStage s (k + 1) hwf hs (by omega) (by omega) hacc
      (fun i h1 h2 => hrst i h1 (by omega))
    have ht : edge^[k + 1] s = t := Host.Outcome.next.inj ((run_eq_iterate_edge _ s).symm.trans hrun)
    have hthw : t.hw = s.hw := by rw [← ht, iterate_edge_hw]
    have hcycle : (currentCycle t).rst = false := by
      rw [← cycleAt_zero, ← ht, iterate_edge_host, cycleAt, List.getD_eq_getElem?_getD, List.getElem?_drop,
        ← List.getD_eq_getElem?_getD]
      exact hrst (k + 1) (by omega) (by omega)
    rw [hk, Function.iterate_succ_apply', ht, ← hthw]
    exact port_edge_of_lastStage (ht ▸ iterate_edge_wf _ hwf) (ht ▸ iterate_edge_settled _ hs) (by rw [hthw]; omega)
      hcycle (by rw [hthw, hk]; exact hstage)

/-- Settles O29: both ports show the response of the datapath, which the latency and bit `ch[4]` do not change. -/
theorem responseDependsOnRequestAlone : Obligations.ResponseDependsOnRequestAlone := by
  intro s s' t t' hwf hwf' hs hs' hhw hacc hacc' hrst hrst' hch haz hdist hrun hrun'
  have ht : edge^[s.hw.latency] s = t := Host.Outcome.next.inj ((run_eq_iterate_edge _ s).symm.trans hrun)
  have ht' : edge^[s'.hw.latency] s' = t' := Host.Outcome.next.inj ((run_eq_iterate_edge _ s').symm.trans hrun')
  have hport := port_iterate_edge_of_accepted hwf hs hacc hrst
  have hport' := port_iterate_edge_of_accepted hwf' hs' hacc' hrst'
  rw [ht] at hport
  rw [ht'] at hport'
  refine ⟨by rw [hport], ?_⟩
  have hsame : project trigCR s.hw (currentCycle s').request = project trigCR s.hw (currentCycle s).request :=
    project_congr trigCR s.hw hch.symm haz.symm hdist.symm
  rw [hport, hport', respondTo, hhw, project_withLatency, respondTo, hsame]

/-! ## PROJECT as one rising edge -/

theorem exec_project (ch : BitVec 5) (az dist : BitVec 16) (s : State) :
    exec (.project ch az dist) s = .next (clockEdge s (some ⟨ch, az, dist⟩)) := rfl

/-- Settles O9: the edge that accepts the request, field by field, for each latency and before the first reset edge. -/
theorem projectCompletes : Obligations.ProjectCompletes := by
  intro ch az dist s hwf
  refine ⟨clockEdge s (some ⟨ch, az, dist⟩), exec_project ch az dist s, clockEdge_hw s _, clockEdge_host s _,
    clockEdge_edges s _, clockEdge_wasReset s _, fun h0 => ?_, fun hpos => ?_, fun hr h1 => ?_, fun hr h2 => ?_,
    fun hr hpos => ?_⟩
  · have hs := settled_of_zero h0
    rw [clockEdge_stages hs, clockEdge_rspValid hs, clockEdge_received, leaving_of_zero h0, portWith_of_zero h0]
    exact ⟨stagesAfter_of_le_one (by omega) _, rfl, rfl⟩
  · rw [clockEdge_received, portWith_of_pos (by omega)]
    rfl
  · have hs := settled_of_wasReset hr
    rw [clockEdge_stages hs, clockEdge_rspValid hs, clockEdge_registers hs, leaving_of_one h1]
    exact ⟨stagesAfter_of_le_one (by omega) _, rfl, loadResponse_some_registers s _⟩
  · have hs := settled_of_wasReset hr
    rw [clockEdge_stages hs, clockEdge_rspValid hs, clockEdge_registers hs, leaving_of_two_le hwf h2]
    refine ⟨stagesAfter_of_two_le hwf h2 _, rfl, fun r hlast => ?_⟩
    rw [hlast]
    exact loadResponse_some_registers s r
  · have hs := settled_eq_false.mpr ⟨hr, hpos⟩
    rw [clockEdge_edges]
    exact ⟨clockEdge_stages_of_not_settled hs _, clockEdge_rspValid_of_not_settled hs _,
      clockEdge_registers_of_not_settled hs _⟩

end Sys2Proof.Machine
end

section
/-! PROOF. No exceptions (`60_exceptions.md`): no edge stops a run (R110), and a block to which the host presents nothing
drains (R112). -/

namespace Sys2Proof.Machine

/-- Settles O8: every step is one rising edge (`step_eq_edge`), so `n` of them lead to the edge iterated `n` times. -/
theorem stepNeverStops : Obligations.StepNeverStops := fun n s => ⟨edge^[n] s, reachesIn_iterate_edge n s⟩

/-- Settles O23: each silent edge, reset or not, empties one more of the `P_LATENCY` registers
(`emptyUpTo_iterate_edge`), so after `P_LATENCY` of them all are empty. -/
theorem blockDrains : Obligations.BlockDrains := fun s h hs hacc =>
  ⟨edge^[s.hw.latency] s, reachesIn_iterate_edge s.hw.latency s, quiescent_iterate_edge h hs hacc⟩

end Sys2Proof.Machine
end

section
/-! PROOF. Reset (`70_reset_and_hazards.md`): what one reset edge leaves and keeps, from power-up or from any other state
(R130, R133, R136), and what the host loses (R138) or receives over a whole run (R139). -/

namespace Sys2Proof.Machine

/-! ## A run in terms of the host's cycles -/

theorem eq_iterate_edge_of_reachesIn {n : Nat} {s t : State} (h : ReachesIn n s t) : t = edge^[n] s :=
  (Host.Outcome.next.inj ((run_eq_iterate_edge n s).symm.trans h)).symm

theorem currentCycle_iterate_edge (n : Nat) (s : State) : currentCycle (edge^[n] s) = cycleAt s.host n := by
  rw [← cycleAt_zero, iterate_edge_host, cycleAt, cycleAt, List.getD_eq_getElem?_getD, List.getD_eq_getElem?_getD,
    List.getElem?_drop, Nat.add_zero]

theorem HostCycle.accepted_eq_false_of_rst {c : HostCycle} (h : c.rst = true) : c.accepted = false := by
  rw [HostCycle.accepted, h, Bool.not_true, Bool.and_false]

/-- One host cycle, taken apart: the reset and the accepted request are all the block reads of it, the sampling is all
the host's record reads. -/
theorem edge_cons (s : State) (c : HostCycle) (rest : List HostCycle) :
    edge { s with host := c :: rest } =
      { (if c.rst then resetEdge s else registersAfter s c.acceptedRequest) with
        host := rest, received := receivedIf c.takes s (portWith s c.acceptedRequest), edges := s.edges + 1 } := by
  have hcycle : currentCycle { s with host := c :: rest } = c := rfl
  cases hr : c.rst with
  | true =>
    have hreq : c.acceptedRequest = none := acceptedRequest_eq_none (HostCycle.accepted_eq_false_of_rst hr)
    rw [edge_of_rst (by rwa [hcycle]), resetEdge_cons, hreq]; rfl
  | false => rw [edge_of_not_rst (by rwa [hcycle]), clockEdge_cons, hcycle]; rfl

/-! ## One reset edge -/

/-- With latency 0 a cycle that accepts nothing has `rsp_valid = 0` (R135). -/
theorem portWith_none_valid_of_zero {s : State} (h : s.hw.latency = 0) : (portWith s none).valid = false := by
  simp [portWith, h]

/-- Settles O11: the step is `resetEdge`, by its fields; its port with latency 0 answers no request. -/
theorem resetEdgeReachesResetState : Obligations.ResetEdgeReachesResetState := by
  intro s hr
  have hacc := HostCycle.accepted_eq_false_of_rst hr
  refine ⟨resetEdge s, by rw [step_eq_edge, edge_of_rst hr], quiescent_resetEdge s, (quiescent_resetEdge s).wf,
    resetEdge_wasReset s, resetEdge_hw s, resetEdge_host s, fetch_of_not_accepted (by simp [hacc]), fun h0 => ⟨?_, ?_⟩⟩
  · rw [State.port, acceptedRequest_eq_none hacc, portWith_none_valid_of_zero h0]
  · rw [resetEdge_received, receivedAfter, portWith_none_valid_of_zero h0]
    rfl

/-- Settles O16: no edge, reset or not, writes the read-only storage (`edge_hw`). -/
theorem romSurvivesEveryRun : Obligations.RomSurvivesEveryRun := fun n s t h => by
  rw [eq_iterate_edge_of_reachesIn h, iterate_edge_hw]

/-- An edge with `rst = 1` after `n` others. -/
theorem iterate_edge_succ_of_rst {n : Nat} {s : State} (h : (cycleAt s.host n).rst = true) :
    edge^[n + 1] s = resetEdge (edge^[n] s) := by
  rw [Function.iterate_succ_apply', edge_of_rst (by rwa [currentCycle_iterate_edge])]

/-- Settles O12: a reset edge empties what `n` edges from power-up have left, and the storage is the built one. -/
theorem powerUpThenReset : Obligations.PowerUpThenReset := by
  intro n host hr
  have hlast : edge^[n + 1] (State.powerUp host) = resetEdge (edge^[n] (State.powerUp host)) :=
    iterate_edge_succ_of_rst hr
  refine ⟨edge^[n + 1] (State.powerUp host), reachesIn_iterate_edge _ _, ?_, ?_, ?_, iterate_edge_hw _ _,
    iterate_edge_host _ _⟩
  · rw [hlast]; exact quiescent_resetEdge _
  · rw [hlast]; exact (quiescent_resetEdge _).wf
  · rw [hlast]; exact resetEdge_wasReset _

/-! ## Before the first reset edge -/

@[simp] theorem edge_edges (s : State) : (edge s).edges = s.edges + 1 := by unfold edge; split <;> simp

@[simp] theorem iterate_edge_edges (n : Nat) (s : State) : (edge^[n] s).edges = s.edges + n := by
  induction n with
  | zero => rfl
  | succ n ih => rw [Function.iterate_succ_apply', edge_edges, ih, Nat.add_assoc]

theorem rst_cycleAt_of_noReset {n i : Nat} {host : List HostCycle} (h : noReset n host) (hi : i < n) :
    (cycleAt host i).rst = false := by
  rw [cycleAt, List.getD_eq_getElem?_getD]
  rcases Nat.lt_or_ge i host.length with hlt | hge
  · rw [List.getElem?_eq_getElem hlt]
    exact h _ (List.mem_take_iff_getElem.mpr ⟨i, by omega, rfl⟩)
  · rw [List.getElem?_eq_none hge]; rfl

/-- Without a reset edge a block that none has preceded stays so (R136). -/
theorem iterate_edge_wasReset {n : Nat} {s : State} (h : noReset n s.host) :
    (edge^[n] s).wasReset = s.wasReset := by
  induction n generalizing s with
  | zero => rfl
  | succ n ih =>
    obtain ⟨hnow, hlater⟩ := (noReset_succ n s).mp h
    rw [Function.iterate_succ_apply, ih (by rwa [edge_host]), edge_of_not_rst hnow, clockEdge_wasReset]

/-- Settles O55: no register is settled before the last edge, and such an edge leaves the free values of its cycle. -/
theorem registersHoldAnyValueUntilReset : Obligations.RegistersHoldAnyValueUntilReset := by
  intro n s hwas hpos hrst
  have hlast : (currentCycle (edge^[n] s)).rst = false := by
    rw [currentCycle_iterate_edge]; exact rst_cycleAt_of_noReset hrst n.lt_succ_self
  have hbefore : noReset n s.host := fun c hc => hrst c (List.take_subset_take_left _ n.le_succ hc)
  have hfree : (edge^[n] s).settled = false :=
    settled_eq_false.mpr ⟨(iterate_edge_wasReset hbefore).trans hwas, by rwa [iterate_edge_hw]⟩
  refine ⟨edge^[n + 1] s, reachesIn_iterate_edge _ _, (iterate_edge_wasReset hrst).trans hwas, iterate_edge_hw _ _, ?_⟩
  rw [Function.iterate_succ_apply', edge_of_not_rst hlast, clockEdge_stages_of_not_settled hfree,
    clockEdge_rspValid_of_not_settled hfree, clockEdge_registers_of_not_settled hfree, iterate_edge_hw,
    iterate_edge_edges]
  exact ⟨rfl, rfl, rfl⟩

/-! ## The host's record -/

/-- Settles O28: of what one edge does (`edge_cons`), the record alone reads the sampling. -/
theorem unsampledResponseIsLost : Obligations.UnsampledResponseIsLost := by
  intro s c rest
  refine ⟨edge { s with host := { c with takes := true } :: rest }, step_eq_edge _, ?_, fun hvalid => ?_⟩
  · rw [step_eq_edge, edge_cons, edge_cons, receivedIf, Bool.and_false]
    rfl
  · have hport : ({ s with host := c :: rest } : State).port = portWith s c.acceptedRequest := portWith_withHost s _ _
    rw [hport] at hvalid ⊢
    rw [edge_cons]
    exact if_pos (by rw [Bool.and_true]; exact hvalid)

/-- Settles O26: the run drains into the host's record. -/
theorem runIsProjectMappedOverRequests : Obligations.RunIsProjectMappedOverRequests := by
  intro s _ hs hq hrst htake
  refine ⟨edge^[s.host.length + s.hw.latency] s, reachesIn_iterate_edge _ _, ?_⟩
  unfold acceptedIn
  rw [noReset, List.take_length] at hrst
  rw [allTaken, List.take_length] at htake
  rw [List.take_length]
  exact received_iterate_edge_of_quiescent hs hq hrst htake

end Sys2Proof.Machine
end

section
/-! PROOF. Which cycles have `rsp_valid = 1` (`70_reset_and_hazards.md` R131, R132, R135): an empty register of the
pipeline moves on like a full one, and a reset edge does not fill it. -/

namespace Sys2Proof.Machine

/-- The valid bits of the block's `P_LATENCY` registers: those of the stages, stage 1 first, then `rsp_valid` (R28,
R29). -/
def State.validBits (s : State) : List Bool := s.stages.map Option.isSome ++ [s.rspValid]

theorem validBits_of_quiescent {s : State} (hpos : 1 ≤ s.hw.latency) (h : s.Quiescent) :
    s.validBits = List.replicate s.hw.latency false := by
  obtain ⟨hstages, hvalid⟩ := h
  rw [State.validBits, hstages, hvalid, List.map_replicate, Option.isSome_none, ← List.replicate_succ',
    Nat.sub_add_cancel hpos]

/-- An edge without reset moves every valid bit on by one register (R28). -/
theorem validBits_clockEdge {s : State} (h : s.Wf) (hs : s.settled = true) (hpos : 1 ≤ s.hw.latency)
    (req : Option Request) : (clockEdge s req).validBits = req.isSome :: s.stages.map Option.isSome := by
  rw [State.validBits, clockEdge_stages hs, clockEdge_rspValid hs, ← List.map_cons, cons_stages_eq h hpos,
    List.map_append, List.map_singleton]

/-- `rsp_valid` is the last of the valid bits. -/
theorem port_valid_of_validBits {s : State} (h : s.Wf) {k : Nat} (hk : k + 1 = s.hw.latency) {b : Bool}
    (hb : s.validBits[k]? = some b) : s.port.valid = b := by
  have hlen : s.stages.length = s.hw.latency - 1 := h.1
  have hlast : k = (s.stages.map Option.isSome).length := by rw [List.length_map]; omega
  rw [State.validBits, hlast, List.getElem?_concat_length, Option.some.injEq] at hb
  rw [port_of_one_le (by omega), hb]

/-- An edge that accepts nothing, reset or not, leaves the first register empty. -/
theorem validBits_edge_zero {s : State} (h : s.Wf) (hs : s.settled = true) (hpos : 1 ≤ s.hw.latency)
    (hacc : (currentCycle s).accepted = false) : (edge s).validBits[0]? = some false := by
  cases hr : (currentCycle s).rst with
  | true =>
    rw [edge_of_rst hr, validBits_of_quiescent (by rwa [resetEdge_hw]) (quiescent_resetEdge s), resetEdge_hw]
    exact List.getElem?_replicate_of_lt hpos
  | false =>
    rw [edge_of_not_rst hr, acceptedRequest_eq_none hacc, validBits_clockEdge h hs hpos]
    rfl

/-- At any edge, reset or not, an empty register is followed by an empty next one. -/
theorem validBits_edge_succ {s : State} (h : s.Wf) (hs : s.settled = true) {k : Nat} (hk : k + 1 < s.hw.latency)
    (hb : s.validBits[k]? = some false) : (edge s).validBits[k + 1]? = some false := by
  have hlen : s.stages.length = s.hw.latency - 1 := h.1
  cases hr : (currentCycle s).rst with
  | true =>
    rw [edge_of_rst hr, validBits_of_quiescent (by rw [resetEdge_hw]; omega) (quiescent_resetEdge s), resetEdge_hw]
    exact List.getElem?_replicate_of_lt hk
  | false =>
    rw [State.validBits, List.getElem?_append_left (by rw [List.length_map]; omega)] at hb
    rw [edge_of_not_rst hr, validBits_clockEdge h hs (by omega), List.getElem?_cons_succ, hb]

theorem validBits_iterate_edge (n : Nat) {s : State} (h : s.Wf) (hs : s.settled = true) {k : Nat}
    (hk : k + n < s.hw.latency) (hb : s.validBits[k]? = some false) :
    (edge^[n] s).validBits[k + n]? = some false := by
  induction n with
  | zero => exact hb
  | succ n ih =>
    rw [Function.iterate_succ_apply']
    exact validBits_edge_succ (iterate_edge_wf n h) (iterate_edge_settled n hs) (by rw [iterate_edge_hw]; omega)
      (ih (by omega))

/-- From a block in the reset state no response comes for `P_LATENCY` cycles, whatever the host presents. -/
theorem port_valid_iterate_edge_of_quiescent {n : Nat} {s : State} (hs : s.settled = true) (hq : s.Quiescent)
    (hn : n < s.hw.latency) : (edge^[n] s).port.valid = false := by
  have hempty : s.validBits[s.hw.latency - 1 - n]? = some false := by
    rw [validBits_of_quiescent (by omega) hq]
    exact List.getElem?_replicate_of_lt (by omega)
  exact port_valid_of_validBits (iterate_edge_wf n hq.wf) (by rw [iterate_edge_hw]; omega)
    (validBits_iterate_edge n hq.wf hs (by omega) hempty)

/-- R135: where no request is accepted, no response comes `P_LATENCY` cycles later, whatever happens between. -/
theorem port_valid_iterate_edge_of_not_accepted {s : State} (h : s.Wf) (hs : s.settled = true)
    (hacc : (currentCycle s).accepted = false) : (edge^[s.hw.latency] s).port.valid = false := by
  rcases Nat.eq_zero_or_pos s.hw.latency with h0 | hpos
  · rw [h0, Function.iterate_zero_apply, State.port, acceptedRequest_eq_none hacc, portWith_none_valid_of_zero h0]
  · obtain ⟨n, hn⟩ := Nat.exists_eq_add_of_le' hpos
    have hempty := validBits_iterate_edge n (edge_wf h) (edge_settled hs) (k := 0) (by rw [edge_hw]; omega)
      (validBits_edge_zero h hs hpos hacc)
    rw [hn, Function.iterate_succ_apply]
    exact port_valid_of_validBits (iterate_edge_wf n (edge_wf h)) (by rw [iterate_edge_hw, edge_hw]; omega) hempty

/-- Settles O18: an accepted request is presented (`port_iterate_edge_of_accepted`), an empty register passes through
to the port. -/
theorem responsePresentedAfterLatency : Obligations.ResponsePresentedAfterLatency := by
  intro s h hs hrst
  refine ⟨edge^[s.hw.latency] s, reachesIn_iterate_edge _ _, ?_⟩
  rw [← HostCycle.accepted_iff]
  cases hacc : (currentCycle s).accepted with
  | true =>
    rw [port_iterate_edge_of_accepted h hs hacc hrst]
    exact ⟨Iff.rfl, fun _ => rfl⟩
  | false =>
    rw [port_valid_iterate_edge_of_not_accepted h hs hacc]
    exact ⟨Iff.rfl, fun h => Bool.noConfusion h⟩

/-- Settles O21: after the reset edge fewer than `P_LATENCY` cycles pass. -/
theorem resetDropsRequest : Obligations.ResetDropsRequest := by
  intro s i _ _ hlt hr
  obtain ⟨n, hn⟩ := Nat.exists_eq_add_of_lt hlt
  refine ⟨edge^[s.hw.latency] s, reachesIn_iterate_edge _ _, ?_⟩
  rw [show s.hw.latency = n + (i + 1) by omega, Function.iterate_add_apply, iterate_edge_succ_of_rst hr]
  exact port_valid_iterate_edge_of_quiescent (resetEdge_settled _) (quiescent_resetEdge _)
    (by rw [resetEdge_hw, iterate_edge_hw]; omega)

theorem accepted_cycleAt_of_acceptedIn_eq_nil {n i : Nat} {host : List HostCycle} (h : acceptedIn n host = [])
    (hi : i < n) : (cycleAt host i).accepted = false := by
  rw [cycleAt, List.getD_eq_getElem?_getD]
  rcases Nat.lt_or_ge i host.length with hlt | hge
  · have hnone := List.filterMap_eq_nil_iff.mp h _ (List.mem_take_iff_getElem.mpr ⟨i, by omega, rfl⟩)
    rw [List.getElem?_eq_getElem hlt, Option.getD_some]
    by_contra hacc
    rw [acceptedRequest_of_accepted (eq_true_of_ne_false hacc)] at hnone
    exact Option.some_ne_none _ hnone
  · rw [List.getElem?_eq_none hge]; rfl

/-- From a block in the reset state the port is silent in each cycle that comes less than `P_LATENCY` cycles after the
first accepted request (R132). -/
theorem port_valid_iterate_edge_of_acceptedIn_eq_nil {n : Nat} {s : State} (hs : s.settled = true) (hq : s.Quiescent)
    (hacc : acceptedIn (n + 1 - s.hw.latency) s.host = []) : (edge^[n] s).port.valid = false := by
  rcases Nat.lt_or_ge n s.hw.latency with hlt | hge
  · exact port_valid_iterate_edge_of_quiescent hs hq hlt
  · obtain ⟨m, rfl⟩ := Nat.exists_eq_add_of_le hge
    have hnow : (currentCycle (edge^[m] s)).accepted = false := by
      rw [currentCycle_iterate_edge]
      exact accepted_cycleAt_of_acceptedIn_eq_nil hacc (by omega)
    have hport := port_valid_iterate_edge_of_not_accepted (iterate_edge_wf m hq.wf) (iterate_edge_settled m hs) hnow
    rwa [iterate_edge_hw, ← Function.iterate_add_apply] at hport

/-- Settles O25: the reset edge leaves a block that owes nothing; R48 gives what follows. -/
theorem afterResetOnlyNewResponses : Obligations.AfterResetOnlyNewResponses := by
  intro n s t _ hr hstep hrst htake
  rw [step_eq_edge, edge_of_rst hr, Host.Outcome.next.injEq] at hstep
  subst hstep
  have hq := quiescent_resetEdge s
  have hs := resetEdge_settled s
  refine ⟨edge^[n] (resetEdge s), reachesIn_iterate_edge _ _, ?_, fun _ hacc => ?_⟩
  · rw [received_append_owed_iterate_edge n hq.wf hs hrst htake, owed_of_quiescent hq, List.append_nil, resetEdge_hw]
  · exact port_valid_iterate_edge_of_acceptedIn_eq_nil hs hq (by rwa [resetEdge_hw])

end Sys2Proof.Machine
end

section
/-! PROOF. A dropped request leaves no trace (`70_reset_and_hazards.md` R131): two blocks that differ in their first
stages alone stay so, one stage more at each edge, and a reset edge makes them equal. -/

namespace Sys2Proof.Machine

/-- The two states differ at most in the first `k` stages. -/
def State.AgreeFrom (k : Nat) (s s' : State) : Prop :=
  ∃ stages, s' = { s with stages := stages } ∧ stages.drop k = s.stages.drop k

theorem State.AgreeFrom.refl (s : State) : s.AgreeFrom 0 s := ⟨s.stages, rfl, rfl⟩

theorem State.AgreeFrom.hw_eq {k : Nat} {s s' : State} (h : s.AgreeFrom k s') : s'.hw = s.hw := by
  obtain ⟨stages, rfl, -⟩ := h; rfl

/-- What leaves the last stage is not among the first `k` stages. -/
theorem leaving_of_drop_eq {k : Nat} {s : State} (hk : k + 1 < s.hw.latency) {stages : List (Option Request)}
    (hdrop : stages.drop k = s.stages.drop k) (req req' : Option Request) :
    leaving { s with stages := stages } req' = leaving s req := by
  obtain ⟨j, hj⟩ := Nat.exists_eq_add_of_lt hk
  have hstage : stages[k + j]? = s.stages[k + j]? := by rw [← List.getElem?_drop, hdrop, List.getElem?_drop]
  simp only [leaving, show s.hw.latency - 1 = k + j + 1 by omega, List.getElem?_cons_succ, hstage]

theorem drop_stagesAfter {k : Nat} (s : State) (req : Option Request) :
    (stagesAfter s req).drop (k + 1) = (s.stages.drop k).take (s.hw.latency - 1 - (k + 1)) := by
  rw [stagesAfter, List.drop_take, List.drop_succ_cons]

theorem loadResponse_withStages (s : State) (stages : List (Option Request)) (done : Option Request) :
    loadResponse { s with stages := stages } done = { loadResponse s done with stages := stages } := by
  cases done <;> rfl

/-- Whatever two requests the edge accepts, they enter stage 1 and reach no register past stage `k + 1`. -/
theorem agreeFrom_registersAfter {k : Nat} {s s' : State} (h : s.AgreeFrom k s') (hk : k + 1 < s.hw.latency)
    (req req' : Option Request) : (registersAfter s req).AgreeFrom (k + 1) (registersAfter s' req') := by
  obtain ⟨stages, rfl, hdrop⟩ := h
  have hsettled : ({ s with stages := stages } : State).settled = s.settled := rfl
  cases hs : s.settled with
  | true =>
    refine ⟨stagesAfter { s with stages := stages } req', ?_, ?_⟩
    · rw [registersAfter, registersAfter, hsettled, hs, leaving_of_drop_eq hk hdrop req, loadResponse_withStages]
      rfl
    · rw [registersAfter, hs, drop_stagesAfter, hdrop]
      exact (drop_stagesAfter s req).symm
  | false =>
    refine ⟨(unsettle s).stages, ?_, ?_⟩
    · rw [registersAfter, registersAfter, hsettled, hs]
      rfl
    · rw [registersAfter, hs]
      rfl

theorem agreeFrom_hostAfter {k : Nat} {s s' : State} (h : s.AgreeFrom k s') (p : Port) :
    (hostAfter s p).AgreeFrom k (hostAfter s' p) := by
  obtain ⟨stages, rfl, hdrop⟩ := h
  exact ⟨stages, rfl, hdrop⟩

/-- The registered port shows no stage, and no request of the cycle (R29). -/
theorem portWith_of_agreeFrom {k : Nat} {s s' : State} (h : s.AgreeFrom k s') (hpos : 1 ≤ s.hw.latency)
    (req req' : Option Request) : portWith s' req' = portWith s req := by
  have hne : s.hw.latency ≠ 0 := by omega
  rw [portWith_of_pos hne, portWith_of_pos (by rwa [h.hw_eq])]
  obtain ⟨stages, rfl, -⟩ := h
  rfl

theorem currentCycle_of_agreeFrom {k : Nat} {s s' : State} (h : s.AgreeFrom k s') :
    currentCycle s' = currentCycle s := by
  obtain ⟨stages, rfl, -⟩ := h; rfl

/-- A reset edge reads no stage. -/
theorem resetEdge_of_agreeFrom {k : Nat} {s s' : State} (h : s.AgreeFrom k s') : resetEdge s' = resetEdge s := by
  obtain ⟨stages, rfl, -⟩ := h; rfl

theorem agreeFrom_edge {k : Nat} {s s' : State} (h : s.AgreeFrom k s') (hk : k + 1 < s.hw.latency) :
    (edge s).AgreeFrom (k + 1) (edge s') := by
  have hcycle := currentCycle_of_agreeFrom h
  cases hr : (currentCycle s).rst with
  | true =>
    rw [edge_of_rst hr, edge_of_rst (by rwa [hcycle]), resetEdge_of_agreeFrom h]
    exact ⟨_, rfl, rfl⟩
  | false =>
    rw [edge_of_not_rst hr, edge_of_not_rst (by rwa [hcycle]), clockEdge, clockEdge,
      portWith_of_agreeFrom h (by omega) (currentCycle s).acceptedRequest]
    exact agreeFrom_hostAfter (agreeFrom_registersAfter h hk _ _) _

theorem agreeFrom_iterate_edge (n : Nat) {k : Nat} {s s' : State} (h : s.AgreeFrom k s')
    (hk : k + n < s.hw.latency) : (edge^[n] s).AgreeFrom (k + n) (edge^[n] s') := by
  induction n with
  | zero => exact h
  | succ n ih =>
    rw [Function.iterate_succ_apply', Function.iterate_succ_apply']
    exact agreeFrom_edge (ih (by omega)) (by rw [iterate_edge_hw]; omega)

/-- One edge after two different first cycles without reset, sampled alike, stage 1 alone differs. -/
theorem agreeFrom_edge_cons (s : State) {c c' : HostCycle} (rest : List HostCycle) (hc : c.rst = false)
    (hc' : c'.rst = false) (htakes : c.takes = c'.takes) (h : 1 < s.hw.latency) :
    (edge { s with host := c :: rest }).AgreeFrom 1 (edge { s with host := c' :: rest }) := by
  have hport := portWith_of_agreeFrom (State.AgreeFrom.refl s) h.le c.acceptedRequest c'.acceptedRequest
  obtain ⟨stages, heq, hdrop⟩ :=
    agreeFrom_registersAfter (State.AgreeFrom.refl s) h c.acceptedRequest c'.acceptedRequest
  rw [edge_cons, edge_cons, hc, hc', htakes, hport]
  refine ⟨stages, ?_, hdrop⟩
  simp only [Bool.false_eq_true, if_false, heq]

/-- Settles O22: up to the reset edge the two runs differ in the first `i + 1` stages alone, and that edge reads none. -/
theorem droppedRequestLeavesNoTrace : Obligations.DroppedRequestLeavesNoTrace := by
  intro s c c' rest i _ hc hc' htakes hi hr
  have hfirst := agreeFrom_edge_cons s rest hc hc' htakes (by omega)
  have hagree := agreeFrom_iterate_edge i hfirst (by rw [edge_hw]; show 1 + i < s.hw.latency; omega)
  have hrun (c : HostCycle) : edge^[i + 2] { s with host := c :: rest } =
      resetEdge (edge^[i] (edge { s with host := c :: rest })) := by
    rw [Function.iterate_succ_apply]
    exact iterate_edge_succ_of_rst (by rw [edge_host]; exact hr)
  have hsame := (hrun c').trans ((resetEdge_of_agreeFrom hagree).trans (hrun c).symm)
  exact ⟨_, reachesIn_iterate_edge _ _, hsame ▸ reachesIn_iterate_edge _ _⟩

end Sys2Proof.Machine
end
